-- ==== Sys2Proof/Word.lean ====
section
/-! DEFINITION. The byte, its one operation (R16: `xor8`), and the two-byte field of a frame
(R120: "a model types them as 2-byte vectors"). -/

namespace Sys2Proof

/-- A byte: an unsigned integer 0..255 (R16). -/
abbrev Byte := BitVec 8

/-- The bitwise exclusive OR of two bytes, the only arithmetic on bytes (R16). -/
abbrev xor8 (a b : Byte) : Byte := a ^^^ b

/-- A command or subcommand: exactly two bytes, `b0` sent first (R80, R88, U14). -/
structure Field2 where
  b0 : Byte
  b1 : Byte
  deriving DecidableEq, Repr, Inhabited

/-- The two bytes in wire order (R53). -/
def Field2.toList (f : Field2) : List Byte := [f.b0, f.b1]

end Sys2Proof
end

