-- ==== Sys2Proof/Syntax.lean ====
section
/-! DEFINITION. One constructor per row of spec/opcode_table.json (R97): the fourteen operations
(R96), the three byte classes (R84), the ten headers (R90) and the two frame patterns (R80). -/

namespace Sys2Proof

/-- The rows of the table. The operands are those of the operands column of R96; for the wire rows,
the bytes that the row leaves open. -/
inductive Instr where
  /-- OPX 0x00, R112. -/
  | lrcClr
  /-- OPX 0x01, R113. -/
  | lrcUpd (b : Byte)
  /-- OPX 0x02, R114. -/
  | lrcRd
  /-- OPX 0x03, R120. -/
  | enc (cmd sub : Field2) (data : List Byte)
  /-- OPX 0x04, R124. -/
  | txEmit
  /-- OPX 0x05, R135. -/
  | dec (buf : List Byte)
  /-- OPX 0x06, R155. -/
  | rxPush (b : Byte)
  /-- OPX 0x07, R157. -/
  | accStep
  /-- OPX 0x08, R177; `portOk` is the draw `env.port_ok`. -/
  | linkOpen (portOk : Bool)
  /-- OPX 0x09, R178. -/
  | linkClose
  /-- OPX 0x0A, R179. -/
  | linkTerr
  /-- OPX 0x0B, R180. -/
  | wrReq (r : Nat) (cmd sub : Field2) (data : List Byte)
  /-- OPX 0x0C, R181. -/
  | wrGrant
  /-- OPX 0x0D, R182. -/
  | wrDone
  /-- The wire byte 0x02, R84. -/
  | stx
  /-- The wire byte 0x03, R84. -/
  | etx
  /-- One of the 254 other wire bytes, R84. -/
  | other (b : Byte)
  /-- `02 "MC" "DC"`, R90. -/
  | hdrMcDc
  /-- `02 "RQ" "ID"`, R90. -/
  | hdrRqId
  /-- `02 "RQ" "IW"`, R90. -/
  | hdrRqIw
  /-- `02 "MC" "LZ"`, R90. -/
  | hdrMcLz
  /-- `02 "RQ" "MI"`, R90. -/
  | hdrRqMi
  /-- `02 "RQ" "ER"`, R90. -/
  | hdrRqEr
  /-- `02 "MC" "EZ"`, R90. -/
  | hdrMcEz
  /-- `02 "MC" "WP"`, R90. -/
  | hdrMcWp
  /-- `02 "MC" "PD"`, R90. -/
  | hdrMcPd
  /-- `02 "MC" "RT"`, R90. -/
  | hdrMcRt
  /-- `02 cmd sub 03 lrc`, R80 with `L = 0`. -/
  | frameL0 (cmd sub : Field2) (lrc : Byte)
  /-- `02 cmd sub d 03 lrc`, R80 with `L = 1`. -/
  | frameL1 (cmd sub : Field2) (d lrc : Byte)
  deriving DecidableEq, Repr, Inhabited

end Sys2Proof
end

