-- ==== Sys2Proof/Config.lean ====
section
/-! DEFINITION. The fixed constants (R11, R12, R14), the open parameters (R10, R13, R210), the events
the environment can bring (R260), and the free choice of the next event (R252, D22). -/

namespace Sys2Proof

/-! ## Fixed constants -/

/-- The start marker (R14). -/
abbrev Config.stxByte : Byte := 0x02#8

/-- The end marker (R14). -/
abbrev Config.etxByte : Byte := 0x03#8

/-- Offset of the first DATA byte from the STX (R11: `HDR_LEN`). -/
abbrev Config.hdrLen : Nat := 5

/-- STX, two command, two subcommand bytes, ETX and LRC (R11: `FRAME_OVERHEAD`). -/
abbrev Config.frameOverhead : Nat := 7

/-- The shortest frame (R11: `MIN_FRAME`). -/
abbrev Config.minFrame : Nat := 7

/-- The longest frame (R11: `MAX_FRAME`). -/
abbrev Config.maxFrame (maxData : Nat) : Nat := maxData + 7

/-- Capacity of the accumulator (R12: `ACC_CAP`). -/
abbrev Config.accCap (maxData : Nat) : Nat := maxData + 7

/-- The serial parameters (R14, R264): recorded, no rule reads them. -/
def Config.baud : Nat := 38400

/-- Data bits of the serial line (R14). -/
def Config.dataBits : Nat := 8

/-- Parity bits of the serial line: none (R14). -/
def Config.parityBits : Nat := 0

/-- Stop bits of the serial line (R14). -/
def Config.stopBits : Nat := 1

/-! ## Open parameters -/

/-- `MAX_DATA` of this machine: open, no value in the spec (R10, D5, N1). -/
opaque Config.maxData : Nat

/-- How many requester ports this machine has beyond the first: open (R13, D15). -/
opaque Config.moreRequesters : Nat

/-- `NREQ`: a natural number of at least 1 (R13). -/
def Config.nreq : Nat := Config.moreRequesters + 1

/-- A decoded frame as it is delivered: the checksum byte is not (R158). -/
structure Frame where
  cmd : Field2
  sub : Field2
  data : List Byte
  deriving DecidableEq, Repr, Inhabited

/-- The host's `Matches(request, frame)`: a parameter of the host, open (R210, N14). The two fields
are the request's. -/
opaque Config.hostMatches : Field2 → Field2 → Frame → Bool

/-! ## What the environment can bring -/

/-- The kinds of record, after the `format` column of the table (R97); the two FRAME rows are told
apart by their width. -/
inductive Format where
  | op5
  | byte8
  | hdr40
  | frame56
  | frame64
  deriving DecidableEq, Repr, Inhabited

/-- One call of the host's `execute` (R220). -/
structure Call where
  caller : Nat
  cmd : Field2
  sub : Field2
  data : List Byte
  timeout : Nat
  maxAttempts : Nat
  deriving DecidableEq, Repr, Inhabited

/-- How a caller leaves the scope of the ConnectionState that it opened (R222). -/
inductive ExitPath where
  | normalReturn
  | error
  | cancellation
  deriving DecidableEq, Repr, Inhabited

/-- What the host software does by itself (R205 to R222); DELIVER and the release at a closure are
reactions, not events (R209, R212). -/
inductive HostEvent where
  /-- A caller invokes `open`; `portOk` is the draw `env.port_ok` (R222, R177). -/
  | acquire (caller : Nat) (portOk : Bool)
  /-- A caller closes, on an exit path out of the scope that it opened or at any other time (R222, R224). -/
  | leave (caller : Nat) (path : ExitPath)
  /-- A caller invokes `execute` (R220). -/
  | execute (c : Call)
  /-- The Correlator starts the attempt of the first waiting caller (R208). -/
  | submit
  /-- The timeout of the attempt in flight is taken: at any moment from its expiry on (R213, R226; how
  late is log entry 18). -/
  | timeout
  /-- The host's clock advances by one unit (R213). -/
  | tick
  deriving DecidableEq, Repr, Inhabited

/-- One thing that happens: a record of the table, the reset pin (R281), or a host event. -/
inductive Event where
  | record (fmt : Format) (bytes : List Byte)
  | resetPin
  | host (h : HostEvent)
  deriving DecidableEq, Repr, Inhabited

/-- The event that happens next where the schedule names none, by the number of draws made so far:
`TIE_ORDER` and the environment's freedom (R252, D22; R18: a draw). -/
opaque Config.nextEvent : Nat → Event

end Sys2Proof
end

