-- ==== Sys2Proof/WellFormed.lean ====
section
/-! DEFINITION. Which terms of `Instr` are rows of the table. Two-byte fields are two bytes by type
(U14); the one check left is that an OTHER byte is no marker (R84, R97). The bound `r < NREQ` of
WR.REQ is a check of the operation, since NREQ belongs to the machine (R180). -/

namespace Sys2Proof

/-- The term is a row with values its fields admit (R84: OTHER is "the remaining 254 values"). -/
def Instr.wf (i : Instr) : Bool :=
  match i with
  | .other b => b != Config.stxByte && b != Config.etxByte
  | .lrcClr | .lrcUpd _ | .lrcRd | .enc _ _ _ | .txEmit | .dec _ | .rxPush _ | .accStep
  | .linkOpen _ | .linkClose | .linkTerr | .wrReq _ _ _ _ | .wrGrant | .wrDone
  | .stx | .etx
  | .hdrMcDc | .hdrRqId | .hdrRqIw | .hdrMcLz | .hdrRqMi | .hdrRqEr | .hdrMcEz | .hdrMcWp
  | .hdrMcPd | .hdrMcRt
  | .frameL0 _ _ _ | .frameL1 _ _ _ _ => true

end Sys2Proof
end

