-- ==== Sys2Proof/Decode.lean ====
section
/-! DEFINITION. Reading a record of the table and writing one. The key of an operation is its OPX
(R96), the wire rows are their wire bytes (R84, R90, R80). The spec gives the operands of an
operation no bits; their layout behind the key is the model's (DESIGN CHOICE, log entry 2). -/

namespace Sys2Proof

/-- Why a record is no row of the table. -/
inductive DecodeError where
  /-- The record has no byte. Safe. -/
  | emptyRecord
  /-- The first byte is no OPX: 0x0E to 0x1F are unused (R96), and a key has five bits (R97). Safe. -/
  | unusedOpx (b : Byte)
  /-- An operand is missing bytes. Safe. -/
  | truncated
  /-- A mark between the bytes of an operand is neither 00 nor 01. Safe. -/
  | badMark (b : Byte)
  /-- The draw of LINK.OPEN is neither 00 nor 01. Safe. -/
  | badDraw (b : Byte)
  /-- The five bytes are none of the ten listed headers (R90). Safe. -/
  | unlistedHeader
  /-- The bytes do not fit the frame pattern of this width (R80). Safe. -/
  | notAFrame
  deriving DecidableEq, Repr, Inhabited

/-! ## Operands behind an OPX (log entry 2) -/

/-- One byte. -/
def takeByte (bs : List Byte) : Except DecodeError (Byte × List Byte) :=
  match bs with
  | [] => .error .truncated
  | b :: rest => .ok (b, rest)

/-- A two-byte field, first byte first (R53). -/
def takeField2 (bs : List Byte) : Except DecodeError (Field2 × List Byte) :=
  match bs with
  | b0 :: b1 :: rest => .ok (⟨b0, b1⟩, rest)
  | _ => .error .truncated

/-- A byte sequence of any length: each byte behind a mark 01, the end a mark 00. -/
def takeSeq (bs : List Byte) : Except DecodeError (List Byte × List Byte) :=
  match bs with
  | [] => .error .truncated
  | [m] => if m = 0#8 then .ok ([], []) else .error .truncated
  | m :: b :: rest =>
    if m = 0#8 then .ok ([], b :: rest)
    else if m = 1#8 then
      match takeSeq rest with
      | .ok (data, rest') => .ok (b :: data, rest')
      | .error e => .error e
    else .error (.badMark m)

/-- A requester number: as many marks 01, the end a mark 00. -/
def takeCount (bs : List Byte) : Except DecodeError (Nat × List Byte) :=
  match bs with
  | [] => .error .truncated
  | m :: rest =>
    if m = 0#8 then .ok (0, rest)
    else if m = 1#8 then
      match takeCount rest with
      | .ok (n, rest') => .ok (n + 1, rest')
      | .error e => .error e
    else .error (.badMark m)

/-- The draw of LINK.OPEN: 01 the port could be acquired, 00 it could not. -/
def takeDraw (bs : List Byte) : Except DecodeError (Bool × List Byte) :=
  match bs with
  | [] => .error .truncated
  | m :: rest =>
    if m = 0#8 then .ok (false, rest)
    else if m = 1#8 then .ok (true, rest)
    else .error (.badDraw m)

/-! ## The four formats -/

/-- ENC: `cmd`, `sub`, `data` (R120). -/
def takeEnc (bs : List Byte) : Except DecodeError (Instr × List Byte) := do
  let (cmd, bs) ← takeField2 bs
  let (sub, bs) ← takeField2 bs
  let (data, bs) ← takeSeq bs
  return (.enc cmd sub data, bs)

/-- WR.REQ: `r`, `cmd`, `sub`, `data` (R180). -/
def takeWrReq (bs : List Byte) : Except DecodeError (Instr × List Byte) := do
  let (r, bs) ← takeCount bs
  let (cmd, bs) ← takeField2 bs
  let (sub, bs) ← takeField2 bs
  let (data, bs) ← takeSeq bs
  return (.wrReq r cmd sub data, bs)

/-- OP5: the OPX of R96 and then the operation's operands. -/
def decodeOp5 (bs : List Byte) : Except DecodeError (Instr × List Byte) :=
  match bs with
  | [] => .error .emptyRecord
  | k :: rest =>
    match k.toNat with
    | 0x00 => .ok (.lrcClr, rest)
    | 0x01 => do let (b, rest) ← takeByte rest; return (.lrcUpd b, rest)
    | 0x02 => .ok (.lrcRd, rest)
    | 0x03 => takeEnc rest
    | 0x04 => .ok (.txEmit, rest)
    | 0x05 => do let (buf, rest) ← takeSeq rest; return (.dec buf, rest)
    | 0x06 => do let (b, rest) ← takeByte rest; return (.rxPush b, rest)
    | 0x07 => .ok (.accStep, rest)
    | 0x08 => do let (ok, rest) ← takeDraw rest; return (.linkOpen ok, rest)
    | 0x09 => .ok (.linkClose, rest)
    | 0x0A => .ok (.linkTerr, rest)
    | 0x0B => takeWrReq rest
    | 0x0C => .ok (.wrGrant, rest)
    | 0x0D => .ok (.wrDone, rest)
    | _ => .error (.unusedOpx k)

/-- BYTE8: the STX and ETX rows are tried before OTHER (R84, R97). -/
def decodeByte8 (bs : List Byte) : Except DecodeError (Instr × List Byte) :=
  match bs with
  | [] => .error .emptyRecord
  | b :: rest =>
    if b = Config.stxByte then .ok (.stx, rest)
    else if b = Config.etxByte then .ok (.etx, rest)
    else .ok (.other b, rest)

/-- The ten headers with their bytes at offsets 0 to 4 (R90; the character codes R91). -/
def headerRows : List (Instr × List Byte) :=
  [(.hdrMcDc, [0x02#8, 0x4D#8, 0x43#8, 0x44#8, 0x43#8]),
   (.hdrRqId, [0x02#8, 0x52#8, 0x51#8, 0x49#8, 0x44#8]),
   (.hdrRqIw, [0x02#8, 0x52#8, 0x51#8, 0x49#8, 0x57#8]),
   (.hdrMcLz, [0x02#8, 0x4D#8, 0x43#8, 0x4C#8, 0x5A#8]),
   (.hdrRqMi, [0x02#8, 0x52#8, 0x51#8, 0x4D#8, 0x49#8]),
   (.hdrRqEr, [0x02#8, 0x52#8, 0x51#8, 0x45#8, 0x52#8]),
   (.hdrMcEz, [0x02#8, 0x4D#8, 0x43#8, 0x45#8, 0x5A#8]),
   (.hdrMcWp, [0x02#8, 0x4D#8, 0x43#8, 0x57#8, 0x50#8]),
   (.hdrMcPd, [0x02#8, 0x4D#8, 0x43#8, 0x50#8, 0x44#8]),
   (.hdrMcRt, [0x02#8, 0x4D#8, 0x43#8, 0x52#8, 0x54#8])]

/-- HDR40: one of the ten listed headers. -/
def decodeHdr40 (bs : List Byte) : Except DecodeError (Instr × List Byte) :=
  match headerRows.find? (fun row => row.2 == bs.take 5) with
  | some row => .ok (row.1, bs.drop 5)
  | none => .error .unlistedHeader

/-- FRAME of 56 bits: the pattern with `L = 0` (R80, R97). -/
def decodeFrame56 (bs : List Byte) : Except DecodeError (Instr × List Byte) :=
  match bs with
  | b0 :: c0 :: c1 :: s0 :: s1 :: e :: l :: rest =>
    if b0 = Config.stxByte ∧ e = Config.etxByte then .ok (.frameL0 ⟨c0, c1⟩ ⟨s0, s1⟩ l, rest)
    else .error .notAFrame
  | _ => .error .notAFrame

/-- FRAME of 64 bits: the pattern with `L = 1` (R80, R97). -/
def decodeFrame64 (bs : List Byte) : Except DecodeError (Instr × List Byte) :=
  match bs with
  | b0 :: c0 :: c1 :: s0 :: s1 :: d :: e :: l :: rest =>
    if b0 = Config.stxByte ∧ e = Config.etxByte then .ok (.frameL1 ⟨c0, c1⟩ ⟨s0, s1⟩ d l, rest)
    else .error .notAFrame
  | _ => .error .notAFrame

/-- The row a record holds, and the bytes behind it. Total on any bytes. -/
def decodeRecord (fmt : Format) (bs : List Byte) : Except DecodeError (Instr × List Byte) :=
  match fmt with
  | .op5 => decodeOp5 bs
  | .byte8 => decodeByte8 bs
  | .hdr40 => decodeHdr40 bs
  | .frame56 => decodeFrame56 bs
  | .frame64 => decodeFrame64 bs

/-! ## The encoder -/

/-- Each byte behind a mark 01, the end a mark 00. -/
def encodeSeq (data : List Byte) : List Byte :=
  match data with
  | [] => [0x00#8]
  | b :: rest => 0x01#8 :: b :: encodeSeq rest

/-- As many marks 01 as the number, the end a mark 00. -/
def encodeCount (n : Nat) : List Byte :=
  match n with
  | 0 => [0x00#8]
  | n + 1 => 0x01#8 :: encodeCount n

/-- The format of a row (R97). -/
def Instr.format (i : Instr) : Format :=
  match i with
  | .lrcClr | .lrcUpd _ | .lrcRd | .enc _ _ _ | .txEmit | .dec _ | .rxPush _ | .accStep
  | .linkOpen _ | .linkClose | .linkTerr | .wrReq _ _ _ _ | .wrGrant | .wrDone => .op5
  | .stx | .etx | .other _ => .byte8
  | .hdrMcDc | .hdrRqId | .hdrRqIw | .hdrMcLz | .hdrRqMi | .hdrRqEr | .hdrMcEz | .hdrMcWp
  | .hdrMcPd | .hdrMcRt => .hdr40
  | .frameL0 _ _ _ => .frame56
  | .frameL1 _ _ _ _ => .frame64

/-- The record of a row: its OPX and operands (R96), or its wire bytes (R84, R90, R80). -/
def encode (i : Instr) : List Byte :=
  match i with
  | .lrcClr => [0x00#8]
  | .lrcUpd b => [0x01#8, b]
  | .lrcRd => [0x02#8]
  | .enc cmd sub data => 0x03#8 :: (cmd.toList ++ sub.toList ++ encodeSeq data)
  | .txEmit => [0x04#8]
  | .dec buf => 0x05#8 :: encodeSeq buf
  | .rxPush b => [0x06#8, b]
  | .accStep => [0x07#8]
  | .linkOpen ok => [0x08#8, if ok then 0x01#8 else 0x00#8]
  | .linkClose => [0x09#8]
  | .linkTerr => [0x0A#8]
  | .wrReq r cmd sub data => 0x0B#8 :: (encodeCount r ++ cmd.toList ++ sub.toList ++ encodeSeq data)
  | .wrGrant => [0x0C#8]
  | .wrDone => [0x0D#8]
  | .stx => [Config.stxByte]
  | .etx => [Config.etxByte]
  | .other b => [b]
  | .hdrMcDc => [0x02#8, 0x4D#8, 0x43#8, 0x44#8, 0x43#8]
  | .hdrRqId => [0x02#8, 0x52#8, 0x51#8, 0x49#8, 0x44#8]
  | .hdrRqIw => [0x02#8, 0x52#8, 0x51#8, 0x49#8, 0x57#8]
  | .hdrMcLz => [0x02#8, 0x4D#8, 0x43#8, 0x4C#8, 0x5A#8]
  | .hdrRqMi => [0x02#8, 0x52#8, 0x51#8, 0x4D#8, 0x49#8]
  | .hdrRqEr => [0x02#8, 0x52#8, 0x51#8, 0x45#8, 0x52#8]
  | .hdrMcEz => [0x02#8, 0x4D#8, 0x43#8, 0x45#8, 0x5A#8]
  | .hdrMcWp => [0x02#8, 0x4D#8, 0x43#8, 0x57#8, 0x50#8]
  | .hdrMcPd => [0x02#8, 0x4D#8, 0x43#8, 0x50#8, 0x44#8]
  | .hdrMcRt => [0x02#8, 0x4D#8, 0x43#8, 0x52#8, 0x54#8]
  | .frameL0 cmd sub l => [Config.stxByte] ++ cmd.toList ++ sub.toList ++ [Config.etxByte, l]
  | .frameL1 cmd sub d l => [Config.stxByte] ++ cmd.toList ++ sub.toList ++ [d, Config.etxByte, l]

/-! ## Words as the table numbers them -/

/-- The `n` low bytes of `w`, most significant first: the table packs the byte sent first as the most
significant (R92). -/
def bytesOfWord (n : Nat) (w : Nat) : List Byte :=
  match n with
  | 0 => []
  | n + 1 => BitVec.ofNat 8 (w >>> (8 * n)) :: bytesOfWord n w

/-- The zero bytes that stand behind a key whose operands the table gives no bits: as many as the
operands of WR.REQ, the longest, need when they are all zero. -/
def zeroOperands : List Byte := List.replicate 8 0x00#8

/-- The record of a table word. A width names the format: one byte is an OPX where it is one of the
fourteen, else a wire byte; an OPX and a wire byte of the same value cannot be told apart by their
bits, and the OPX wins (log entry 8). A row without bits is the OTHER row (R97). -/
def tableRecord (nbits w : Nat) : Format × List Byte :=
  if nbits = 0 then (.byte8, bytesOfWord 1 w)
  else if nbits ≤ 8 then
    if w < 14 then (.op5, bytesOfWord 1 w ++ zeroOperands) else (.byte8, bytesOfWord 1 w)
  else if nbits = 40 then (.hdr40, bytesOfWord 5 w)
  else if nbits = 56 then (.frame56, bytesOfWord 7 w)
  else if nbits = 64 then (.frame64, bytesOfWord 8 w)
  else (.op5, [])

/-- What the decoder reads from a table word. -/
def decodeTableWord (nbits w : Nat) : Option Instr :=
  match decodeRecord (tableRecord nbits w).1 (tableRecord nbits w).2 with
  | .ok (i, _) => some i
  | .error _ => none

end Sys2Proof
end

