-- ==== Sys2Proof/Machine/State.lean ====
section
/-! DEFINITION. The state of the machine (R20), the histories it is observed by (R51), the schedule of
events (R19, R252), the host agent (45_host_contract.md), and the reasons a step stops. -/

namespace Sys2Proof.Machine

open Sys2Proof

/-- The link state: IOBC's ConnectionState in one bit (R22). -/
inductive Link where
  | closed
  | opened
  deriving DecidableEq, Repr, Inhabited

/-- The statuses of R240 with the information they carry. -/
inductive Status where
  /-- WR.DONE carries the bytes written; LINK.OPEN carries nothing. -/
  | ok (written : Option Nat)
  | needMoreBytes
  | invalid (drop : Nat)
  | checksumError (used : Nat)
  | frameTooLarge
  | transportError
  | linkClosed
  | connectionError
  /-- The host's, never produced by the block (R248). -/
  | commandTimeout (attempts : Nat)
  deriving DecidableEq, Repr, Inhabited

/-- The four outcomes of Decode (R135, R141). -/
inductive Decoded where
  | needMoreBytes
  | invalid (drop : Nat)
  | checksumError (used : Nat)
  | frame (cmd sub : Field2) (data : List Byte) (used : Nat)
  deriving DecidableEq, Repr, Inhabited

/-- The events of the diagnostic side channel (R262). -/
inductive Diag where
  | checksumDiscard (used : Nat)
  | invalidDiscard (drop : Nat)
  | transportFailure
  deriving DecidableEq, Repr, Inhabited

/-- What one ACC.STEP emits (R157). -/
inductive AccEvent where
  | frame (f : Frame)
  | diag (d : Diag)
  deriving DecidableEq, Repr, Inhabited

/-- The result an operation hands to whoever started it (the results column of R96). -/
inductive Result where
  /-- LRC.RD (R114). -/
  | byte (b : Byte)
  /-- ENC (R120). -/
  | bytes (bs : List Byte)
  /-- ENC (FrameTooLarge) and LINK.OPEN (R120, R177). -/
  | status (st : Status)
  /-- DEC (R135). -/
  | decoded (d : Decoded)
  deriving DecidableEq, Repr, Inhabited

/-- A write request, as `wq` and `cur` latch it (R25, R26, R128). -/
structure Request where
  r : Nat
  cmd : Field2
  sub : Field2
  data : List Byte
  deriving DecidableEq, Repr, Inhabited

/-- The write in progress: its request and the number of bytes already emitted (R26). -/
structure Active where
  req : Request
  idx : Nat
  deriving DecidableEq, Repr, Inhabited

/-- The open parameters of the block (R10, R13): no operation writes them. -/
structure Params where
  maxData : Nat
  nreq : Nat
  deriving DecidableEq, Repr, Inhabited

/-- What the host hands to a caller of `execute` (R220, R221). -/
inductive CallResult where
  | frame (f : Frame)
  | failed (st : Status)
  deriving DecidableEq, Repr, Inhabited

/-- The host's PendingRequest: the attempt in flight (R206). -/
structure Pending where
  call : Call
  attempt : Nat
  submitted : Nat
  deriving DecidableEq, Repr, Inhabited

/-- A caller on the host's wait list and the attempts it has made (R211, R215). -/
structure Waiter where
  call : Call
  made : Nat
  deriving DecidableEq, Repr, Inhabited

/-- The host agent: environment, not part of the block (R6, R205). -/
structure HostState where
  /-- At most one PendingRequest (R206). -/
  pending : Option Pending
  /-- The FIFO wait list (R211). -/
  waiters : List Waiter
  /-- The timeout clock (R213). -/
  clock : Nat
  /-- Frames discarded and logged (R209). -/
  stale : List Frame
  /-- Results handed to callers, oldest first (R220). -/
  calls : List (Nat × CallResult)
  /-- The callers inside the scope of a ConnectionState they opened, newest first: each from its successful
  `open` to its exit, whatever becomes of the link meanwhile (R222; log entry 19). -/
  scopes : List Nat
  /-- Answers to `open`, Ok or ConnectionError, oldest first (R221, R222). -/
  opens : List (Nat × Status)
  deriving DecidableEq, Repr, Inhabited

/-- The whole state. The first block is R20's five elements; no other value of the block is carried
from one operation to the next. -/
structure State where
  /-- R22. -/
  link : Link
  /-- The register of the encoder's LRC instance (R23). -/
  lrcTx : Byte
  /-- The accumulation buffer, oldest byte first (R24). -/
  acc : List Byte
  /-- The wait queue of the arbiter, oldest first (R25). -/
  wq : List Request
  /-- The write in progress (R26). -/
  cur : Option Active
  /-- The register of an LRC generator unit taken by itself (R23, R115; log entry 3). -/
  lrc : Byte
  /-- Bytes sent to the device (R51). -/
  txLog : List Byte
  /-- Bytes received (R51). -/
  rxLog : List Byte
  /-- Frames delivered (R51). -/
  frameLog : List Frame
  /-- DIAG events (R51). -/
  diagLog : List Diag
  /-- Completions (R51). -/
  doneLog : List (Nat × Status)
  /-- The result of the last operation, if it has one (R96; log entry 5). -/
  result : Option Result
  /-- MAX_DATA and NREQ of this machine (R10, R13; log entry 1). -/
  params : Params
  /-- The events still to come, next first (R19, R252; log entry 4). -/
  env : List Event
  /-- The free draws made so far (log entry 4). -/
  draws : Nat
  /-- The host agent (45_host_contract.md; log entry 6). -/
  host : HostState
  deriving DecidableEq, Repr, Inhabited

/-- Why an operation is not enabled, after its precondition. -/
inductive Blocked where
  /-- RX.PUSH, ACC.STEP, LINK.TERR, WR.GRANT, TX.EMIT with `link = Closed` (R186). -/
  | linkIsClosed
  /-- RX.PUSH while ACC.STEP is enabled (R155, R156). -/
  | notQuiescent
  /-- ACC.STEP with `Decode(acc) = NeedMoreBytes` (R157). -/
  | quiescent
  /-- TX.EMIT, WR.DONE with `cur = none` (R124, R182). -/
  | noWriteInProgress
  /-- TX.EMIT with every byte of the frame out (R124). -/
  | frameAllEmitted
  /-- WR.DONE with bytes of the frame still to emit (R182). -/
  | frameNotAllEmitted
  /-- WR.GRANT with `cur ≠ none` (R181). -/
  | writeInProgress
  /-- WR.GRANT with `wq = []` (R181). -/
  | queueEmpty
  /-- SUBMIT of the host with the link Closed, a request pending, nobody waiting, or its port still
  outstanding (R208, R211, R224). -/
  | hostCannotSubmit
  /-- TIMEOUT of the host with no request pending or the timeout not yet elapsed (R213). -/
  | hostNotTimedOut
  /-- `execute`, `open` or `close` of a caller that is suspended in `execute`, but for the cancellation that
  takes it out of its scope (R222, R223). -/
  | hostCallerSuspended
  deriving DecidableEq, Repr, Inhabited

/-- Faults: none. "No behaviour of the LFB is `fault` or `stuck`" (93_implementation_defined.md). -/
inductive Fault where
  deriving DecidableEq, Repr

/-- Reasons a step has no next state. Every one is safe: the model stops where the spec gives no step. -/
inductive Refusal where
  /-- Raised by an arm of `exec` whose instruction has no meaning yet. Safe. -/
  | notModelled (mnemonic : String)
  /-- Raised by an operation whose precondition does not hold: "an operation that is not enabled has
  no step" (R18). Safe. -/
  | notEnabled (why : Blocked)
  /-- Raised by WR.REQ of a requester that is outstanding: "not an operation of the model" (R180,
  R293, U10). Safe. -/
  | requesterOutstanding (r : Nat)
  /-- Raised by WR.REQ of a requester number that is not below NREQ: no value of the operand (R180).
  Safe. -/
  | noSuchRequester (r : Nat)
  /-- Raised by the step on a record that is no row of the table. Safe. -/
  | undecodable (e : DecodeError)
  /-- Raised by the step on a decoded term that is not well formed; the decoder yields none. Safe. -/
  | illFormed
  deriving DecidableEq, Repr, Inhabited

/-- The host agent at the start: nothing pending, nobody waiting, nobody in a scope (log entry 6). -/
def HostState.reset : HostState :=
  { pending := none, waiters := [], clock := 0, stale := [], calls := [], scopes := [], opens := [] }

/-- The machine right after reset (R20, R33, R281), with nothing on the schedule. -/
def State.reset : State :=
  { link := .closed, lrcTx := 0x00#8, acc := [], wq := [], cur := none
    lrc := 0x00#8
    txLog := [], rxLog := [], frameLog := [], diagLog := [], doneLog := []
    result := none
    params := { maxData := Config.maxData, nreq := Config.nreq }
    env := [], draws := 0
    host := HostState.reset }

end Sys2Proof.Machine
end

