-- ==== Sys2Proof/Machine/Operands.lean ====
section
/-! DEFINITION. The notation of R17 on byte sequences, and the byte an operation takes from its
operand: the byte a write has at an index (R124). -/

namespace Sys2Proof.Machine

open Sys2Proof

/-- `s[i..j]`, the elements at indices `i` to `j` inclusive, empty when `j < i` (R17). -/
def slice (s : List Byte) (i j : Nat) : List Byte := (s.take (j + 1)).drop i

/-- The search of `first`, at index `i` of the sequence. -/
def firstFrom (b : Byte) (lo hi i : Nat) (s : List Byte) : Option Nat :=
  match s with
  | [] => none
  | x :: rest => if lo ≤ i ∧ i ≤ hi ∧ x = b then some i else firstFrom b lo hi (i + 1) rest

/-- `first(s, lo, hi, = b)`: the least index within `lo..hi` and the sequence that holds `b` (R17). -/
def first (s : List Byte) (lo hi : Nat) (b : Byte) : Option Nat := firstFrom b lo hi 0 s

/-- The byte of a request's frame at index `idx`, the last one being read from the register `lrc`
(R124; R125 with `lrc` the checksum of the covered bytes). -/
def frameByte (q : Request) (lrc : Byte) (idx : Nat) : Byte :=
  if idx = 0 then Config.stxByte
  else if idx = 1 then q.cmd.b0
  else if idx = 2 then q.cmd.b1
  else if idx = 3 then q.sub.b0
  else if idx = 4 then q.sub.b1
  else if idx < Config.hdrLen + q.data.length then q.data.getD (idx - Config.hdrLen) 0x00#8
  else if idx = Config.hdrLen + q.data.length then Config.etxByte
  else lrc

/-- The length of a request's frame, `len(data) + 7` (R123 E1, R26). -/
def frameLength (q : Request) : Nat := q.data.length + Config.frameOverhead

end Sys2Proof.Machine
end

