-- ==== Sys2Proof/Machine/Codec.lean ====
section
/-! DEFINITION. The pure functions of the block: `LRC` (R110), `Encode` (R120), `EncByte` (R125) and
`Decode` (R135), and the codes of R240 and R262. -/

namespace Sys2Proof.Machine

open Sys2Proof

/-! ## The LRC generator (R110 to R115) -/

/-- LRC.CLR on a register (R112). -/
def lrcClear : Byte := 0x00#8

/-- LRC.UPD on a register (R113). -/
def lrcUpdate (lrc b : Byte) : Byte := xor8 lrc b

/-- The function `LRC`: the XOR of all bytes of a sequence (R110). -/
def lrcOf (s : List Byte) : Byte := s.foldl lrcUpdate lrcClear

/-! ## The encoder (R120 to R125) -/

/-- The bytes the checksum covers: command through ETX (R81). -/
def coveredBytes (cmd sub : Field2) (data : List Byte) : List Byte :=
  cmd.toList ++ sub.toList ++ data ++ [Config.etxByte]

/-- The frame of any data, before the length check (R80). -/
def frameBytes (cmd sub : Field2) (data : List Byte) : List Byte :=
  [Config.stxByte] ++ coveredBytes cmd sub data ++ [lrcOf (coveredBytes cmd sub data)]

/-- `Encode(cmd, sub, data)`: `none` is FrameTooLarge (R120). -/
def frameEncode (maxData : Nat) (cmd sub : Field2) (data : List Byte) : Option (List Byte) :=
  if maxData < data.length then none else some (frameBytes cmd sub data)

/-- `EncByte(cmd, sub, data, i)` (R125). -/
def encByte (q : Request) (i : Nat) : Byte :=
  frameByte q (lrcOf (coveredBytes q.cmd q.sub q.data)) i

/-! ## The decoder (R135 to R142) -/

/-- Step 4: the checksum of the candidate that ends with the ETX at `e` (R140). -/
def checkCandidate (buf : List Byte) (e : Nat) : Decoded :=
  if lrcOf (slice buf 1 e) = buf.getD (e + 1) 0x00#8 then
    .frame ⟨buf.getD 1 0x00#8, buf.getD 2 0x00#8⟩ ⟨buf.getD 3 0x00#8, buf.getD 4 0x00#8⟩
      (slice buf Config.hdrLen (e - 1)) (e + 2)
  else .checksumError (e + 2)

/-- Step 2 without an ETX: overlong, or not yet decidable (R139, R137 b). -/
def noEndMarker (maxData : Nat) (buf : List Byte) : Decoded :=
  if 6 + maxData ≤ buf.length then
    match first buf 1 (buf.length - 1) Config.stxByte with
    | none => .invalid buf.length
    | some t => .invalid t
  else .needMoreBytes

/-- Steps 2 to 4, for a buffer that begins with STX. -/
def decodeCandidate (maxData : Nat) (buf : List Byte) : Decoded :=
  match first buf Config.hdrLen (Config.hdrLen + maxData) Config.etxByte with
  | none => noEndMarker maxData buf
  | some e => if e + 1 = buf.length then .needMoreBytes else checkCandidate buf e

/-- `Decode(buf)` (R135). -/
def frameDecode (maxData : Nat) (buf : List Byte) : Decoded :=
  if buf.length = 0 then .needMoreBytes
  else
    match first buf 0 (buf.length - 1) Config.stxByte with
    | none => .invalid buf.length
    | some s => if 0 < s then .invalid s else decodeCandidate maxData buf

/-! ## Codes -/

/-- The 4-bit code of a status (R240). -/
def statusCode (st : Status) : BitVec 4 :=
  match st with
  | .ok _ => 0x0#4
  | .needMoreBytes => 0x1#4
  | .invalid _ => 0x2#4
  | .checksumError _ => 0x3#4
  | .frameTooLarge => 0x4#4
  | .transportError => 0x5#4
  | .linkClosed => 0x6#4
  | .connectionError => 0x7#4
  | .commandTimeout _ => 0x8#4

/-- The code of a DIAG event (R262). -/
def diagCode (d : Diag) : Nat :=
  match d with
  | .checksumDiscard _ => 0
  | .invalidDiscard _ => 1
  | .transportFailure => 2

end Sys2Proof.Machine
end

