-- ==== Sys2Proof/Machine/Flags.lean ====
section
/-! DEFINITION. The values a neighbour can test. The block latches no flag: each is a function of the
state (R29, R27, R156, R176). -/

namespace Sys2Proof.Machine

open Sys2Proof

/-- `link_open` (R29). -/
def linkOpen (s : State) : Bool := s.link == .opened

/-- `tx_busy` (R29). -/
def txBusy (s : State) : Bool := s.cur.isSome

/-- `wq_empty` (R29). -/
def wqEmpty (s : State) : Bool := s.wq.isEmpty

/-- `acc_empty` (R29). -/
def accEmpty (s : State) : Bool := s.acc.isEmpty

/-- The accumulator is quiescent: `Decode(acc) = NeedMoreBytes` (R156). -/
def quiescent (s : State) : Bool := frameDecode s.params.maxData s.acc == .needMoreBytes

/-- The requesters of `cur` and `wq`: the writer first, then the queue, oldest first (R27). -/
def outstanding (s : State) : List Nat := s.cur.toList.map (fun a => a.req.r) ++ s.wq.map (fun q => q.r)

/-- The control states of the arbiter (R176). -/
inductive Control where
  | closed
  | idle
  | busy
  deriving DecidableEq, Repr

/-- The arbiter's control state (R176). -/
def controlState (s : State) : Control :=
  match s.link with
  | .closed => .closed
  | .opened => if txBusy s then .busy else .idle

/-- The states of the host's Correlator; not the arbiter's (R207). -/
inductive Correlator where
  | closed
  | idle
  | awaitingResponse
  deriving DecidableEq, Repr

/-- The Correlator's state: Closed exactly when `link = Closed` (R207). -/
def correlator (s : State) : Correlator :=
  match s.link with
  | .closed => .closed
  | .opened => if s.host.pending.isSome then .awaitingResponse else .idle

end Sys2Proof.Machine
end

