-- ==== Sys2Proof/Machine/Ops.lean ====
section
/-! DEFINITION. The named operations over the state that the meanings share (R18, R51, R183): outputs
to the five streams, the result, the accumulator, the queue, the closure of the link, and RESET. The
block takes no exception (60_exceptions.md: "no operation transfers control anywhere"): the closure of
R178 and R179 is its one fatal path and stands here once. -/

namespace Sys2Proof.Machine

open Sys2Proof

/-- Hand a result, or none, to whoever started the operation (R96; log entry 5). -/
def setResult (r : Option Result) (s : State) : State := { s with result := r }

/-- `emit TX(b)` (R18, R51). -/
def emitTx (b : Byte) (s : State) : State := { s with txLog := s.txLog ++ [b] }

/-- `emit FRAME(cmd, sub, data)` (R18, R158). -/
def emitFrame (f : Frame) (s : State) : State := { s with frameLog := s.frameLog ++ [f] }

/-- `emit DIAG(ev)` (R18, R262). -/
def emitDiag (d : Diag) (s : State) : State := { s with diagLog := s.diagLog ++ [d] }

/-- Emit what one ACC.STEP emits (R157). -/
def emitAccEvent (ev : AccEvent) (s : State) : State :=
  match ev with
  | .frame f => emitFrame f s
  | .diag d => emitDiag d s

/-- Append a received byte to the accumulator and to `rx_log` (R155). -/
def pushByte (b : Byte) (s : State) : State := { s with acc := s.acc ++ [b], rxLog := s.rxLog ++ [b] }

/-- `acc <- drop(k, acc)` (R157). -/
def consume (k : Nat) (s : State) : State := { s with acc := s.acc.drop k }

/-- The completion part of `complete(r, st)` (R183); that `r` is no longer outstanding is the removal
of its request from `cur` or `wq`, done by the caller. -/
def complete (r : Nat) (st : Status) (s : State) : State := { s with doneLog := s.doneLog ++ [(r, st)] }

/-- LRC.CLR on the encoder's instance (R112, R181). -/
def clearLrcTx (s : State) : State := { s with lrcTx := lrcClear }

/-- LRC.UPD(b) on the encoder's instance (R113, R124). -/
def updateLrcTx (b : Byte) (s : State) : State := { s with lrcTx := lrcUpdate s.lrcTx b }

/-- `wq <- wq ++ [q]` (R180). -/
def enqueue (q : Request) (s : State) : State := { s with wq := s.wq ++ [q] }

/-- Take the TX stream for a request, the rest staying queued (R181). -/
def startWrite (q : Request) (rest : List Request) (s : State) : State :=
  { s with cur := some { req := q, idx := 0 }, wq := rest }

/-- Count the byte just emitted (R124). -/
def advanceWrite (a : Active) (s : State) : State := { s with cur := some { a with idx := a.idx + 1 } }

/-- `cur <- none` (R182). -/
def endWrite (s : State) : State := { s with cur := none }

/-- The closure that LINK.CLOSE and LINK.TERR share: the writer is completed with `st`, each queued
requester with LinkClosed, oldest first; `wq`, `cur` and `acc` are emptied and the link is Closed
(R178, R179). -/
def closeLink (st : Status) (s : State) : State :=
  { s with
    doneLog := s.doneLog ++ s.cur.toList.map (fun a => (a.req.r, st)) ++ s.wq.map (fun q => (q.r, .linkClosed))
    wq := [], cur := none, acc := [], link := .closed }

/-- What a successful LINK.OPEN does (R177). -/
def openLink (s : State) : State := { s with link := .opened, acc := [], wq := [], cur := none }

/-- Operation RESET, a pin: every element takes its reset value, nobody is completed, no DIAG event is
emitted (R281). The histories keep what the wire and the sinks have already seen (log entry 9); the callers
of the host stay inside their scopes (log entry 19). -/
def resetPin (s : State) : State :=
  { s with link := .closed, lrcTx := 0x00#8, acc := [], wq := [], cur := none, lrc := 0x00#8, result := none }

end Sys2Proof.Machine
end

