-- ==== Sys2Proof/Machine/Arbiter.lean ====
section
/-! DEFINITION. The link state and the write arbiter: LINK.OPEN (R177), LINK.CLOSE (R178), LINK.TERR
(R179), WR.REQ (R180), WR.GRANT (R181), WR.DONE (R182). -/

namespace Sys2Proof.Machine

open Sys2Proof

/-- LINK.OPEN with the draw `env.port_ok`; "already open" is tested before the draw (R177, R253 c). -/
def execLinkOpen (portOk : Bool) (s : State) : Host.Outcome State Fault Refusal :=
  match s.link with
  | .opened => .next (setResult (some (.status .connectionError)) s)
  | .closed =>
    if portOk then .next (setResult (some (.status (.ok none))) (openLink s))
    else .next (setResult (some (.status .connectionError)) s)

/-- LINK.CLOSE; on a closed link nothing happens (R178, R190). -/
def execLinkClose (s : State) : Host.Outcome State Fault Refusal :=
  match s.link with
  | .closed => .next (setResult none s)
  | .opened => .next (setResult none (closeLink .linkClosed s))

/-- LINK.TERR (R179). -/
def execLinkTerr (s : State) : Host.Outcome State Fault Refusal :=
  match s.link with
  | .closed => .refused (.notEnabled .linkIsClosed)
  | .opened => .next (setResult none (emitDiag .transportFailure (closeLink .transportError s)))

/-- WR.REQ(r, cmd, sub, data): the length is tested before the link (R180, R253 b). -/
def execWrReq (r : Nat) (cmd sub : Field2) (data : List Byte) (s : State) :
    Host.Outcome State Fault Refusal :=
  if s.params.nreq ≤ r then .refused (.noSuchRequester r)
  else if r ∈ outstanding s then .refused (.requesterOutstanding r)
  else if s.params.maxData < data.length then .next (setResult none (complete r .frameTooLarge s))
  else
    match s.link with
    | .closed => .next (setResult none (complete r .linkClosed s))
    | .opened => .next (setResult none (enqueue { r := r, cmd := cmd, sub := sub, data := data } s))

/-- WR.GRANT: the oldest request gets the TX stream (R181). -/
def execWrGrant (s : State) : Host.Outcome State Fault Refusal :=
  match s.link with
  | .closed => .refused (.notEnabled .linkIsClosed)
  | .opened =>
    match s.cur with
    | some _ => .refused (.notEnabled .writeInProgress)
    | none =>
      match s.wq with
      | [] => .refused (.notEnabled .queueEmpty)
      | q :: rest => .next (setResult none (clearLrcTx (startWrite q rest s)))

/-- WR.DONE (R182). -/
def execWrDone (s : State) : Host.Outcome State Fault Refusal :=
  match s.cur with
  | none => .refused (.notEnabled .noWriteInProgress)
  | some a =>
    if a.idx = frameLength a.req then
      .next (setResult none (endWrite (complete a.req.r (.ok (some (frameLength a.req))) s)))
    else .refused (.notEnabled .frameNotAllEmitted)

end Sys2Proof.Machine
end

