-- ==== Sys2Proof/Machine/Decoder.lean ====
section
/-! DEFINITION. DEC (R135): the decode step as an operation of its own; it reads its operand and changes
nothing but the result. -/

namespace Sys2Proof.Machine

open Sys2Proof

/-- DEC (R135, R141). -/
def execDec (buf : List Byte) (s : State) : Host.Outcome State Fault Refusal :=
  .next (setResult (some (.decoded (frameDecode s.params.maxData buf))) s)

end Sys2Proof.Machine
end

