-- ==== Sys2Proof/Machine/Encoder.lean ====
section
/-! DEFINITION. ENC (R120) and TX.EMIT (R124). -/

namespace Sys2Proof.Machine

open Sys2Proof

/-- ENC: the frame, or FrameTooLarge exactly when `len(data) > MAX_DATA` (R120, R241). -/
def execEnc (cmd sub : Field2) (data : List Byte) (s : State) : Host.Outcome State Fault Refusal :=
  match frameEncode s.params.maxData cmd sub data with
  | some f => .next (setResult (some (.bytes f)) s)
  | none => .next (setResult (some (.status .frameTooLarge)) s)

/-- The effect of TX.EMIT on a write that has bytes left: command through ETX are fed to the LRC,
STX and the LRC byte are not (R124). -/
def emitNextByte (a : Active) (s : State) : State :=
  let b := frameByte a.req s.lrcTx a.idx
  let s := emitTx b s
  let s := if 1 ≤ a.idx ∧ a.idx ≤ Config.hdrLen + a.req.data.length then updateLrcTx b s else s
  advanceWrite a s

/-- TX.EMIT (R124). -/
def execTxEmit (s : State) : Host.Outcome State Fault Refusal :=
  match s.link with
  | .closed => .refused (.notEnabled .linkIsClosed)
  | .opened =>
    match s.cur with
    | none => .refused (.notEnabled .noWriteInProgress)
    | some a =>
      if a.idx < frameLength a.req then .next (setResult none (emitNextByte a s))
      else .refused (.notEnabled .frameAllEmitted)

end Sys2Proof.Machine
end

