-- ==== Sys2Proof/Machine/Lrc.lean ====
section
/-! DEFINITION. LRC.CLR, LRC.UPD, LRC.RD on the register of an LRC generator unit taken by itself
(R112 to R115; log entry 3). -/

namespace Sys2Proof.Machine

open Sys2Proof

/-- LRC.CLR (R112). -/
def execLrcClr (s : State) : Host.Outcome State Fault Refusal :=
  .next (setResult none { s with lrc := lrcClear })

/-- LRC.UPD(b) (R113). -/
def execLrcUpd (b : Byte) (s : State) : Host.Outcome State Fault Refusal :=
  .next (setResult none { s with lrc := lrcUpdate s.lrc b })

/-- LRC.RD (R114). -/
def execLrcRd (s : State) : Host.Outcome State Fault Refusal :=
  .next (setResult (some (.byte s.lrc)) s)

end Sys2Proof.Machine
end

