-- ==== Sys2Proof/Machine/Accumulator.lean ====
section
/-! DEFINITION. RX.PUSH (R155), ACC.STEP (R157), the decode loop (R156, R162), and the accumulator as a
function of the stream (R165). -/

namespace Sys2Proof.Machine

open Sys2Proof

/-- The event and the count of ACC.STEP on an outcome; `none` for NeedMoreBytes (R157 to R161). -/
def accEvent (d : Decoded) : Option (AccEvent × Nat) :=
  match d with
  | .needMoreBytes => none
  | .invalid k => some (.diag (.invalidDiscard k), k)
  | .checksumError k => some (.diag (.checksumDiscard k), k)
  | .frame cmd sub data k => some (.frame { cmd := cmd, sub := sub, data := data }, k)

/-- One ACC.STEP on the accumulator, `none` where it is not enabled (R157). -/
def accStepOnce (s : State) : Option State :=
  match accEvent (frameDecode s.params.maxData s.acc) with
  | none => none
  | some (ev, k) => some (consume k (emitAccEvent ev s))

/-- RX.PUSH(b) (R155). -/
def execRxPush (b : Byte) (s : State) : Host.Outcome State Fault Refusal :=
  match s.link with
  | .closed => .refused (.notEnabled .linkIsClosed)
  | .opened =>
    if quiescent s then .next (setResult none (pushByte b s))
    else .refused (.notEnabled .notQuiescent)

/-- ACC.STEP (R157). -/
def execAccStep (s : State) : Host.Outcome State Fault Refusal :=
  match s.link with
  | .closed => .refused (.notEnabled .linkIsClosed)
  | .opened =>
    match accStepOnce s with
    | some t => .next (setResult none t)
    | none => .refused (.notEnabled .quiescent)

/-! ## The decode loop on the state -/

/-- At most `n` ACC.STEP operations, stopping when the accumulator is quiescent (R156). -/
def drainSteps (n : Nat) (s : State) : State :=
  match n with
  | 0 => s
  | n + 1 =>
    match accStepOnce s with
    | none => s
    | some t => drainSteps n t

/-- ACC.STEP for as long as it is enabled: at most `len(acc)` of them are possible (R156, R162). -/
def drain (s : State) : State := drainSteps s.acc.length s

/-- The receiver brings one byte: it is taken when the accumulator is quiescent, and ACC.STEP is then
performed for as long as it is enabled (R155, R156, R292). -/
def receiveByte (s : State) (b : Byte) : State := drain (pushByte b (drain s))

/-- The receiver brings bytes, first byte first; while the link is Closed it is not read and they never
reach the block (R155, R251, U18). -/
def receive (bs : List Byte) (s : State) : State :=
  match s.link with
  | .closed => s
  | .opened => bs.foldl receiveByte s

/-! ## The accumulator as a function of the stream (R165) -/

/-- `Drain` with at most `n` steps: the events and the final contents. -/
def drainSeq (maxData n : Nat) (a : List Byte) : List AccEvent × List Byte :=
  match n with
  | 0 => ([], a)
  | n + 1 =>
    match accEvent (frameDecode maxData a) with
    | none => ([], a)
    | some (ev, k) => (ev :: (drainSeq maxData n (a.drop k)).1, (drainSeq maxData n (a.drop k)).2)

/-- `Drain(a)` (R165; R162 bounds its steps by the length). -/
def drainOf (maxData : Nat) (a : List Byte) : List AccEvent × List Byte := drainSeq maxData a.length a

/-- `Feed(a, s)` (R165). -/
def feed (maxData : Nat) (a s : List Byte) : List AccEvent × List Byte :=
  match s with
  | [] => ([], a)
  | b :: rest =>
    let d := drainOf maxData (a ++ [b])
    let f := feed maxData d.2 rest
    (d.1 ++ f.1, f.2)

/-- The FRAME events among accumulator events, in order (R51: what `frame_log` receives). -/
def framesOf (evs : List AccEvent) : List Frame :=
  evs.filterMap (fun ev => match ev with | .frame f => some f | .diag _ => none)

/-- The DIAG events among accumulator events, in order (R51: what `diag_log` receives). -/
def diagsOf (evs : List AccEvent) : List Diag :=
  evs.filterMap (fun ev => match ev with | .frame _ => none | .diag d => some d)

end Sys2Proof.Machine
end

