-- ==== Sys2Proof/Machine/Wire.lean ====
section
/-! DEFINITION. The wire rows of the table: the byte classes (R84), the listed headers (R90) and the
frame patterns (R80). They are no operations but bytes on the wire; their meaning is that the receiver
brings them, each byte being an RX.PUSH followed by ACC.STEP for as long as it is enabled (R99, R156,
R165; log entry 7). -/

namespace Sys2Proof.Machine

open Sys2Proof

/-- The receiver brings these bytes; no operation hands a result to anybody. -/
def receiveWire (bs : List Byte) (s : State) : Host.Outcome State Fault Refusal :=
  .next (setResult none (receive bs s))

/-- The byte class STX (R84). -/
def execStx (s : State) : Host.Outcome State Fault Refusal := receiveWire [Config.stxByte] s

/-- The byte class ETX (R84). -/
def execEtx (s : State) : Host.Outcome State Fault Refusal := receiveWire [Config.etxByte] s

/-- The byte class OTHER (R84). -/
def execOther (b : Byte) (s : State) : Host.Outcome State Fault Refusal := receiveWire [b] s

/-- The five bytes of a header (R90): never looked up, received like any other bytes. -/
def headerWire (c0 c1 s0 s1 : Byte) : List Byte := [Config.stxByte, c0, c1, s0, s1]

/-- The header MC/DC (R90). -/
def execHdrMcDc (s : State) : Host.Outcome State Fault Refusal :=
  receiveWire (headerWire 0x4D#8 0x43#8 0x44#8 0x43#8) s

/-- The header RQ/ID (R90). -/
def execHdrRqId (s : State) : Host.Outcome State Fault Refusal :=
  receiveWire (headerWire 0x52#8 0x51#8 0x49#8 0x44#8) s

/-- The header RQ/IW (R90). -/
def execHdrRqIw (s : State) : Host.Outcome State Fault Refusal :=
  receiveWire (headerWire 0x52#8 0x51#8 0x49#8 0x57#8) s

/-- The header MC/LZ (R90). -/
def execHdrMcLz (s : State) : Host.Outcome State Fault Refusal :=
  receiveWire (headerWire 0x4D#8 0x43#8 0x4C#8 0x5A#8) s

/-- The header RQ/MI (R90). -/
def execHdrRqMi (s : State) : Host.Outcome State Fault Refusal :=
  receiveWire (headerWire 0x52#8 0x51#8 0x4D#8 0x49#8) s

/-- The header RQ/ER (R90). -/
def execHdrRqEr (s : State) : Host.Outcome State Fault Refusal :=
  receiveWire (headerWire 0x52#8 0x51#8 0x45#8 0x52#8) s

/-- The header MC/EZ (R90). -/
def execHdrMcEz (s : State) : Host.Outcome State Fault Refusal :=
  receiveWire (headerWire 0x4D#8 0x43#8 0x45#8 0x5A#8) s

/-- The header MC/WP (R90). -/
def execHdrMcWp (s : State) : Host.Outcome State Fault Refusal :=
  receiveWire (headerWire 0x4D#8 0x43#8 0x57#8 0x50#8) s

/-- The header MC/PD (R90). -/
def execHdrMcPd (s : State) : Host.Outcome State Fault Refusal :=
  receiveWire (headerWire 0x4D#8 0x43#8 0x50#8 0x44#8) s

/-- The header MC/RT (R90). -/
def execHdrMcRt (s : State) : Host.Outcome State Fault Refusal :=
  receiveWire (headerWire 0x4D#8 0x43#8 0x52#8 0x54#8) s

/-- A frame with no DATA byte, the last byte as received (R80, `L = 0`). -/
def execFrameL0 (cmd sub : Field2) (l : Byte) (s : State) : Host.Outcome State Fault Refusal :=
  receiveWire ([Config.stxByte] ++ cmd.toList ++ sub.toList ++ [Config.etxByte, l]) s

/-- A frame with one DATA byte, the last byte as received (R80, `L = 1`). -/
def execFrameL1 (cmd sub : Field2) (d l : Byte) (s : State) : Host.Outcome State Fault Refusal :=
  receiveWire ([Config.stxByte] ++ cmd.toList ++ sub.toList ++ [d, Config.etxByte, l]) s

end Sys2Proof.Machine
end

