-- ==== Sys2Proof/Machine/Dispatch.lean ====
section
/-! DEFINITION. One arm per row of the table: the meaning of each. -/

namespace Sys2Proof.Machine

open Sys2Proof

def exec (i : Instr) (s : State) : Host.Outcome State Fault Refusal :=
  match i with
  | .lrcClr => Sys2Proof.Machine.execLrcClr s
  | .lrcUpd b => Sys2Proof.Machine.execLrcUpd b s
  | .lrcRd => Sys2Proof.Machine.execLrcRd s
  | .enc cmd sub data => Sys2Proof.Machine.execEnc cmd sub data s
  | .txEmit => Sys2Proof.Machine.execTxEmit s
  | .dec buf => Sys2Proof.Machine.execDec buf s
  | .rxPush b => Sys2Proof.Machine.execRxPush b s
  | .accStep => Sys2Proof.Machine.execAccStep s
  | .linkOpen portOk => Sys2Proof.Machine.execLinkOpen portOk s
  | .linkClose => Sys2Proof.Machine.execLinkClose s
  | .linkTerr => Sys2Proof.Machine.execLinkTerr s
  | .wrReq r cmd sub data => Sys2Proof.Machine.execWrReq r cmd sub data s
  | .wrGrant => Sys2Proof.Machine.execWrGrant s
  | .wrDone => Sys2Proof.Machine.execWrDone s
  | .stx => Sys2Proof.Machine.execStx s
  | .etx => Sys2Proof.Machine.execEtx s
  | .other b => Sys2Proof.Machine.execOther b s
  | .hdrMcDc => Sys2Proof.Machine.execHdrMcDc s
  | .hdrRqId => Sys2Proof.Machine.execHdrRqId s
  | .hdrRqIw => Sys2Proof.Machine.execHdrRqIw s
  | .hdrMcLz => Sys2Proof.Machine.execHdrMcLz s
  | .hdrRqMi => Sys2Proof.Machine.execHdrRqMi s
  | .hdrRqEr => Sys2Proof.Machine.execHdrRqEr s
  | .hdrMcEz => Sys2Proof.Machine.execHdrMcEz s
  | .hdrMcWp => Sys2Proof.Machine.execHdrMcWp s
  | .hdrMcPd => Sys2Proof.Machine.execHdrMcPd s
  | .hdrMcRt => Sys2Proof.Machine.execHdrMcRt s
  | .frameL0 cmd sub l => Sys2Proof.Machine.execFrameL0 cmd sub l s
  | .frameL1 cmd sub d l => Sys2Proof.Machine.execFrameL1 cmd sub d l s

end Sys2Proof.Machine
end

