-- ==== Sys2Proof/Machine/HostAgent.lean ====
section
/-! DEFINITION. The host software that surrounds the block: Correlator, Command Client and callers
(45_host_contract.md, every rule marked [environment]; R6). It is an agent of its own: it issues WR.REQ
on its port, it is the frame sink, and it keeps the clock and the wait list. No operation of the block
reads its state. -/

namespace Sys2Proof.Machine

open Sys2Proof

/-- The requester port of the host: port 0, which exists for every NREQ (log entry 6). -/
def hostPort : Nat := 0

/-- The calls of `execute` that have no answer yet: the pending one and the waiting ones (R206, R211). -/
def openCalls (h : HostState) : List Call :=
  h.pending.toList.map (fun p => p.call) ++ h.waiters.map (fun w => w.call)

/-- The callers suspended in `execute`, the only blocking point (R223). -/
def suspended (h : HostState) : List Nat := (openCalls h).map (fun c => c.caller)

/-- Fulfil a call: its caller gets the result, once (R214, R220). -/
def fulfil (c : Call) (r : CallResult) (h : HostState) : HostState :=
  { h with calls := h.calls ++ [(c.caller, r)] }

/-- DELIVER(frame): the pending request is fulfilled if the frame matches it; any other frame is stale,
discarded and logged, and the request stays outstanding (R209, R210). An attempt whose timeout has elapsed
but was not taken yet still takes its frame (log entry 18). -/
def deliver (h : HostState) (f : Frame) : HostState :=
  match h.pending with
  | none => { h with stale := h.stale ++ [f] }
  | some p =>
    if Config.hostMatches p.call.cmd p.call.sub f then
      fulfil p.call (.frame f) { h with pending := none }
    else { h with stale := h.stale ++ [f] }

/-- `* → Closed`: all pending and queued callers are released with LinkClosed, the pending one first
(R212, R221). Nobody leaves a scope by it, whatever closed the link: LINK.CLOSE, LINK.TERR or the reset pin
(log entry 19). -/
def releaseAll (h : HostState) : HostState :=
  { h with
    calls := h.calls ++ h.pending.toList.map (fun p => (p.call.caller, .failed .linkClosed))
      ++ h.waiters.map (fun w => (w.call.caller, .failed .linkClosed))
    pending := none, waiters := [] }

/-- The host's immediate reactions to what one step of the block emitted: DELIVER once per new FRAME
event, in order, and then the release of everybody if the link is Closed (R209, R212). -/
def hostReact (before after : State) : State :=
  let h := (after.frameLog.drop before.frameLog.length).foldl deliver after.host
  { after with host := if after.link = .closed then releaseAll h else h }

/-- A next state as the host has reacted to it; a stop stays a stop. -/
def settle (before : State) (o : Host.Outcome State Fault Refusal) : Host.Outcome State Fault Refusal :=
  match o with
  | .next after => .next (hostReact before after)
  | .fault f => .fault f
  | .refused r => .refused r

/-- What a call of `execute` is answered before any WR.REQ: FrameTooLarge before any I/O, no attempt at all
if none is allowed, LinkClosed on a closed link; `none` where it waits for its turn (R220). -/
def answerAtOnce (c : Call) (s : State) : Option Status :=
  if s.params.maxData < c.data.length then some .frameTooLarge
  else if c.maxAttempts = 0 then some (.commandTimeout 0)
  else
    match s.link with
    | .closed => some .linkClosed
    | .opened => none

/-- The call joins the end of the wait list, no attempt made yet (R211). -/
def joinWaiters (c : Call) (h : HostState) : HostState :=
  { h with waiters := h.waiters ++ [{ call := c, made := 0 }] }

/-- The host once an attempt of `w` is registered and its WR.REQ issued: FrameTooLarge, which completes
the WR.REQ in the same step, fulfils the PendingRequest at once (R208; `execute` lets no such request
wait, R220). -/
def registered (w : Waiter) (rest : List Waiter) (maxData : Nat) (h : HostState) : HostState :=
  if maxData < w.call.data.length then
    fulfil w.call (.failed .frameTooLarge) { h with pending := none, waiters := rest }
  else
    { h with
      pending := some { call := w.call, attempt := w.made + 1, submitted := h.clock }
      waiters := rest }

/-- SUBMIT of the first waiting caller: the PendingRequest is registered first and the frame is then
written with one WR.REQ on the host's port (R208, R297, C15). -/
def hostSubmit (s : State) : Host.Outcome State Fault Refusal :=
  match s.link, s.host.pending, s.host.waiters with
  | .opened, none, w :: rest =>
    if hostPort ∈ outstanding s then .refused (.notEnabled .hostCannotSubmit)
    else
      execWrReq hostPort w.call.cmd w.call.sub w.call.data
        { s with host := registered w rest s.params.maxData s.host }
  | _, _, _ => .refused (.notEnabled .hostCannotSubmit)

/-- The timeout of the attempt in flight is taken: its registration is removed; the caller waits again,
or gets CommandTimeout with the number of attempts made (R213, R215, R248). It is never taken early; how
late it may be taken is open, "within scheduling tolerance" (R226), and the model sets no bound (log entry
18). -/
def hostTimeout (s : State) : Host.Outcome State Fault Refusal :=
  match s.host.pending with
  | none => .refused (.notEnabled .hostNotTimedOut)
  | some p =>
    if s.host.clock < p.submitted + p.call.timeout then .refused (.notEnabled .hostNotTimedOut)
    else if p.attempt < p.call.maxAttempts then
      .next { s with
        host := { s.host with
          pending := none
          waiters := s.host.waiters ++ [{ call := p.call, made := p.attempt }] } }
    else
      .next { s with
        host := fulfil p.call (.failed (.commandTimeout p.attempt)) { s.host with pending := none } }

/-- A call of `execute`. A caller suspended in an earlier one cannot make it (R223). Its data are not looked at
but for their length (R220): `0x03` in them is defined (R121, U2), and that a host keeps it out is its duty, not
a test of `execute` (R224; log entry 20). -/
def hostCall (c : Call) (s : State) : Host.Outcome State Fault Refusal :=
  if c.caller ∈ suspended s.host then .refused (.notEnabled .hostCallerSuspended)
  else
    .next { s with
      host :=
        match answerAtOnce c s with
        | some st => fulfil c (.failed st) s.host
        | none => joinWaiters c s.host }

/-- What LINK.OPEN answers to an `open` (R222, R177): the port is free whenever the link is Closed, since
LINK.CLOSE and LINK.TERR release it (R22, R264). -/
def openAnswer (portOk : Bool) (s : State) : Status :=
  if s.link == .closed && portOk then .ok none else .connectionError

/-- `open`: LINK.OPEN; its caller enters a scope on Ok and only then (R222). -/
def hostAcquire (caller : Nat) (portOk : Bool) (s : State) : Host.Outcome State Fault Refusal :=
  if caller ∈ suspended s.host then .refused (.notEnabled .hostCallerSuspended)
  else
    execLinkOpen portOk
      { s with
        host := { s.host with
          scopes := if openAnswer portOk s = .ok none then caller :: s.host.scopes else s.host.scopes
          opens := s.host.opens ++ [(caller, openAnswer portOk s)] } }

/-- A caller closes: LINK.CLOSE, on every exit path out of its scope (R222), and again or from outside any scope
("close at any time, repeatedly", R224), also where its own ConnectionState was torn down before (log entry 19).
A caller suspended in `execute` calls nothing, but its cancellation takes it out of its scope (R222, R223). -/
def hostLeave (caller : Nat) (path : ExitPath) (s : State) : Host.Outcome State Fault Refusal :=
  if caller ∈ suspended s.host ∧ ¬ (path = .cancellation ∧ caller ∈ s.host.scopes) then
    .refused (.notEnabled .hostCallerSuspended)
  else execLinkClose { s with host := { s.host with scopes := s.host.scopes.erase caller } }

/-- The host's clock advances by one unit, whatever has expired meanwhile (R213, R226; log entry 18). -/
def hostTick (s : State) : Host.Outcome State Fault Refusal :=
  .next { s with host := { s.host with clock := s.host.clock + 1 } }

/-- One event of the host agent. -/
def hostStep (h : HostEvent) (s : State) : Host.Outcome State Fault Refusal :=
  match h with
  | .acquire caller portOk => hostAcquire caller portOk s
  | .leave caller path => hostLeave caller path s
  | .execute c => hostCall c s
  | .submit => hostSubmit s
  | .timeout => hostTimeout s
  | .tick => hostTick s

end Sys2Proof.Machine
end

