-- ==== Sys2Proof/Machine/Step.lean ====
section
/-! DEFINITION. One step: the next event of the schedule happens (R19, R252). -/

namespace Sys2Proof.Machine

open Sys2Proof

/-- A record of the table: decoded, checked and executed. -/
def runRecord (fmt : Format) (bytes : List Byte) (s : State) : Host.Outcome State Fault Refusal :=
  match decodeRecord fmt bytes with
  | .error e => .refused (.undecodable e)
  | .ok (i, _) => if i.wf then exec i s else .refused .illFormed

/-- One event happens, and the host reacts to it. -/
def runEvent (e : Event) (s : State) : Host.Outcome State Fault Refusal :=
  match e with
  | .record fmt bytes => settle s (runRecord fmt bytes s)
  | .resetPin => settle s (.next (resetPin s))
  | .host h => settle s (hostStep h s)

/-- Where a freely drawn event is not enabled or is no event, nothing happens (R18: it has no step). -/
def orIdle (s : State) (o : Host.Outcome State Fault Refusal) : Host.Outcome State Fault Refusal :=
  match o with
  | .next t => .next t
  | .fault _ => .next s
  | .refused _ => .next s

/-- One step under a law of draws. An event of the schedule is taken off it and happens; past its end the
next event is drawn (R252, D22; log entry 4). -/
def stepWith (draw : Nat → Event) (s : State) : Host.Outcome State Fault Refusal :=
  match s.env with
  | e :: rest => runEvent e { s with env := rest }
  | [] =>
    orIdle { s with draws := s.draws + 1 } (runEvent (draw s.draws) { s with draws := s.draws + 1 })

/-- One step of the machine: its draws are free (log entry 4). -/
def step (s : State) : Host.Outcome State Fault Refusal := stepWith Config.nextEvent s

/-- `s` with a table word as the next event of the schedule. -/
def State.withFetchWord (s : State) (nbits w : Nat) : State :=
  { s with env := .record (tableRecord nbits w).1 (tableRecord nbits w).2 :: s.env }

end Sys2Proof.Machine
end

