-- ==== Sys2Proof/Machine/Liveness.lean ====
section
/-! DEFINITION. Runs and weak fairness, the one liveness assumption (R19, R300), and the host's own
progress (R225). The draws of the machine
obey no law by themselves; a run under a law of draws may be fair, and what the spec says of liveness it
says of the fair ones (log entry 13). -/

namespace Sys2Proof.Machine

open Sys2Proof

/-- The event that the next step takes, under a law of draws (R252; log entry 4). -/
def dueEvent (draw : Nat → Event) (s : State) : Event :=
  match s.env with
  | e :: _ => e
  | [] => draw s.draws

/-- An infinite run: each state is the step of the one before (R19). -/
def isRun (draw : Nat → Event) (run : Nat → State) : Prop :=
  ∀ n, stepWith draw (run n) = .next (run (n + 1))

/-- The operation's precondition holds: it has a step (R18). -/
def enabled (i : Instr) (s : State) : Prop := ∃ t, exec i s = .next t

/-- The next step is a record of this operation. -/
def isDue (draw : Nat → Event) (i : Instr) (s : State) : Prop :=
  ∃ fmt bytes tail, dueEvent draw s = .record fmt bytes ∧ decodeRecord fmt bytes = .ok (i, tail)

/-- The operations that fairness speaks of: the three inside the block, and the transmitter taking the next
byte (R300). -/
def fairOps : List Instr := [.accStep, .wrGrant, .wrDone, .txEmit]

/-- Weak fairness: an operation that stays enabled is eventually performed (R300). A closure or a reset
that intervenes ends its being enabled. Nothing is assumed of any other event. -/
def weaklyFair (draw : Nat → Event) (run : Nat → State) : Prop :=
  ∀ i ∈ fairOps, ∀ n, (∀ m, n ≤ m → enabled i (run m)) → ∃ m, n ≤ m ∧ isDue draw i (run m)

/-! ## The host's progress (R213, R225) -/

/-- The host's event has a step. -/
def hostEnabled (h : HostEvent) (s : State) : Prop := ∃ t, hostStep h s = .next t

/-- What the host does by itself without being called: it starts attempts, takes expiries, and its clock
goes on (R208, R213). -/
def hostFairEvents : List HostEvent := [.submit, .timeout, .tick]

/-- Weak fairness of the host: such an event that stays enabled is eventually performed (log entry 13). -/
def hostFair (draw : Nat → Event) (run : Nat → State) : Prop :=
  ∀ h ∈ hostFairEvents, ∀ n, (∀ m, n ≤ m → hostEnabled h (run m)) →
    ∃ m, n ≤ m ∧ dueEvent draw (run m) = .host h

/-- The host's requester port is its own: nobody else issues WR.REQ on it (R208, R293). -/
def hostOwnsPort (draw : Nat → Event) (run : Nat → State) : Prop :=
  ∀ n cmd sub data, ¬ isDue draw (.wrReq hostPort cmd sub data) (run n)

end Sys2Proof.Machine
end

