-- ==== Sys2Proof/Safety.lean ====
section
/-! DEFINITION. What the statements speak of: the invariants of R28, the statuses a write can end with
(R183), and a sequence of operations with nothing between them. -/

namespace Sys2Proof

open Sys2Proof.Machine

/-- The checksum of the covered bytes of a frame that are out after `idx` bytes, the empty XOR when
`idx ≤ 1` (R28 I5): `LRC(Encode(..)[1 .. min(idx, L+6) - 1])`. -/
def emittedLrc (q : Request) (idx : Nat) : Byte :=
  lrcOf (((frameBytes q.cmd q.sub q.data).take (min idx (q.data.length + 6))).drop 1)

/-- The statuses that can complete a write: `Ok(n)`, FrameTooLarge, LinkClosed, TransportError and no
others (R183). -/
def isWriteStatus (st : Status) : Prop :=
  (∃ n, st = .ok (some n)) ∨ st = .frameTooLarge ∨ st = .linkClosed ∨ st = .transportError

/-- The invariants of R28 with the operand bounds of R25 and the statuses of R183. -/
structure Invariants (s : State) : Prop where
  /-- I1: every requester occurs at most once among `wq` and `cur`. -/
  distinct : (outstanding s).Nodup
  /-- R25: `0 ≤ r < NREQ`. -/
  ports : ∀ r ∈ outstanding s, r < s.params.nreq
  /-- I2. -/
  closedEmpty : s.link = .closed → s.wq = [] ∧ s.cur = none ∧ s.acc = []
  /-- I3, in every state. -/
  accBound : s.acc.length ≤ Config.accCap s.params.maxData
  /-- I3, when quiescent. -/
  accQuiet : quiescent s = true → s.acc.length ≤ Config.accCap s.params.maxData - 1
  /-- I4, for the queue. -/
  queuedData : ∀ q ∈ s.wq, q.data.length ≤ s.params.maxData
  /-- I4 for the write in progress, and I5. -/
  writing : ∀ a, s.cur = some a →
    a.req.data.length ≤ s.params.maxData ∧ a.idx ≤ a.req.data.length + 7 ∧ s.lrcTx = emittedLrc a.req a.idx
  /-- I6. -/
  accStart : s.acc ≠ [] → quiescent s = true → s.acc.head? = some Config.stxByte
  /-- R183. -/
  statuses : ∀ c ∈ s.doneLog, isWriteStatus c.2

/-- The operation stands in the table under this OPX (R96). -/
def hasOpx (i : Instr) (opx : Byte) : Prop := i.format = .op5 ∧ (encode i).head? = some opx

/-- Operations one after the other, with no other event between them. -/
def runOps (is : List Instr) (s : State) : Host.Outcome State Fault Refusal :=
  match is with
  | [] => .next s
  | i :: rest =>
    match exec i s with
    | .next t => runOps rest t
    | .fault f => .fault f
    | .refused r => .refused r

/-! ## The receive side -/

/-- The row is this byte on the wire (R84). -/
def isWireByte (i : Instr) (b : Byte) : Prop :=
  (i = .stx ∧ b = 0x02#8) ∨ (i = .etx ∧ b = 0x03#8) ∨ (i = .other b ∧ b ≠ 0x02#8 ∧ b ≠ 0x03#8)

/-- On an open link the row feeds these bytes to the accumulator, and does nothing else: the decode loop
ends first if it has not yet (R156, R292), and then each byte is pushed and decoded (R165 `Feed`). -/
def feedsAccumulator (i : Instr) (bs : List Byte) : Prop :=
  ∀ s : State, s.link = .opened →
    let d := drainOf s.params.maxData s.acc
    let f := feed s.params.maxData d.2 bs
    exec i s = .next { s with
      acc := f.2
      rxLog := s.rxLog ++ bs
      frameLog := s.frameLog ++ framesOf (d.1 ++ f.1)
      diagLog := s.diagLog ++ diagsOf (d.1 ++ f.1)
      result := none }

/-- A stream fed in chunks: append a chunk, Drain, append the next (R166). -/
def feedChunks (maxData : Nat) (a : List Byte) (chunks : List (List Byte)) : List AccEvent × List Byte :=
  match chunks with
  | [] => ([], a)
  | c :: rest =>
    let d := drainOf maxData (a ++ c)
    let f := feedChunks maxData d.2 rest
    (d.1 ++ f.1, f.2)

/-- How many bytes the event reports as discarded garbage (R262). -/
def garbageCount (ev : AccEvent) : Option Nat :=
  match ev with
  | .diag (.invalidDiscard k) => some k
  | .diag (.checksumDiscard _) | .diag .transportFailure | .frame _ => none

/-- The events that are no InvalidDiscard, in order (R166). -/
def withoutGarbage (evs : List AccEvent) : List AccEvent := evs.filter (fun ev => (garbageCount ev).isNone)

/-- The bytes that the InvalidDiscard events account for, in total (R166). -/
def garbageTotal (evs : List AccEvent) : Nat := (evs.filterMap garbageCount).sum

/-! ## The two sides of the block (R60 O6) -/

/-- An outcome with its next state changed. -/
def onNext (f : State → State) (o : Host.Outcome State Fault Refusal) : Host.Outcome State Fault Refusal :=
  match o with
  | .next t => .next (f t)
  | .fault r => .fault r
  | .refused r => .refused r

/-- The elements and histories of the transmit side, taken from another state. -/
def withTxSide (u s : State) : State :=
  { s with lrcTx := u.lrcTx, wq := u.wq, cur := u.cur, txLog := u.txLog, doneLog := u.doneLog }

/-- The elements and histories of the receive side, taken from another state. -/
def withRxSide (u s : State) : State :=
  { s with acc := u.acc, rxLog := u.rxLog, frameLog := u.frameLog, diagLog := u.diagLog }

/-! ## The arbiter and the host -/

/-- The requester that an operation asks for (R180). -/
def requested (i : Instr) : List Nat :=
  match i with
  | .wrReq r _ _ _ => [r]
  | .lrcClr | .lrcUpd _ | .lrcRd | .enc _ _ _ | .txEmit | .dec _ | .rxPush _ | .accStep
  | .linkOpen _ | .linkClose | .linkTerr | .wrGrant | .wrDone | .stx | .etx | .other _
  | .hdrMcDc | .hdrRqId | .hdrRqIw | .hdrMcLz | .hdrRqMi | .hdrRqEr | .hdrMcEz | .hdrMcWp
  | .hdrMcPd | .hdrMcRt | .frameL0 _ _ _ | .frameL1 _ _ _ _ => []

/-- The caller that an event adds (R220). -/
def called (e : Event) : List Nat :=
  match e with
  | .host (.execute c) => [c.caller]
  | .host (.acquire _ _) | .host (.leave _ _) | .host .submit | .host .timeout | .host .tick
  | .record _ _ | .resetPin => []

/-- The invariants of the host agent (45_host_contract.md). -/
structure HostInvariants (s : State) : Prop where
  /-- R207, R212, R227: a Closed link has no request pending and nobody waiting. -/
  closedReleased : s.link = .closed → s.host.pending = none ∧ s.host.waiters = []
  /-- R223: a caller is suspended in at most one `execute`. -/
  callersDistinct : (suspended s.host).Nodup
  /-- R220: a call that waits has data that fit a frame. -/
  fits : ∀ c ∈ openCalls s.host, c.data.length ≤ s.params.maxData
  /-- R206, R215: the attempt in flight is one of those allowed, and was submitted in the past. -/
  attempt : ∀ p, s.host.pending = some p →
    1 ≤ p.attempt ∧ p.attempt ≤ p.call.maxAttempts ∧ p.submitted ≤ s.host.clock
  /-- R215: a caller waits only while attempts are left. -/
  attemptsLeft : ∀ w ∈ s.host.waiters, w.made < w.call.maxAttempts

/-- The duty on the data of a write, at an event: no `0x03` in what `execute` or WR.REQ is handed (R224, R291).
The machine does not enforce it: such a write is defined (U2; log entry 20). -/
def dutiful (e : Event) : Prop :=
  (∀ c, e = .host (.execute c) → Config.etxByte ∉ c.data) ∧
  ∀ fmt bytes r cmd sub data tail, e = .record fmt bytes →
    decodeRecord fmt bytes = .ok (.wrReq r cmd sub data, tail) → Config.etxByte ∉ data

/-- No call that waits, no request and no write in progress holds `0x03` in its data (R224). -/
structure EtxKeptOut (s : State) : Prop where
  calls : ∀ c ∈ openCalls s.host, Config.etxByte ∉ c.data
  queue : ∀ q ∈ s.wq, Config.etxByte ∉ q.data
  writing : ∀ a, s.cur = some a → Config.etxByte ∉ a.req.data

/-- In this run the caller gets this answer from `execute` in the step from time `m`, and is suspended no
longer (R214, R220). -/
def answeredAt (run : Nat → State) (m caller : Nat) (r : CallResult) : Prop :=
  ∃ new, (run (m + 1)).host.calls = (run m).host.calls ++ new ∧ (caller, r) ∈ new ∧
    caller ∉ suspended (run (m + 1)).host

/-- In this run requester `r` gets the status `st` in the step from time `m`, and is outstanding no longer
(R183). -/
def completedAt (run : Nat → State) (m r : Nat) (st : Status) : Prop :=
  ∃ new, (run (m + 1)).doneLog = (run m).doneLog ++ new ∧ (r, st) ∈ new ∧ r ∉ outstanding (run (m + 1))

end Sys2Proof
end

