-- ==== Sys2Proof/Certificates/Slice0/Obligations.lean ====
section
/-! DEFINITION. The statements for the provers. Each docstring names the rule it formalises; where a
clause rests on the model's own choice it names the log entry. The field `result` is the model's own
(log entry 5): where a rule gives an operation no result, its statement leaves that field open. -/

open Sys2Proof Sys2Proof.Machine

/-! ## The LRC generator (40_lrc.md) -/

/-- R110: the start value, the fold, and "bit `i` of the result is the parity of bit `i` of all the bytes". -/
def Obligations.LrcIsColumnParity : Prop :=
  lrcOf [] = 0x00#8 ∧
  (∀ (s : List Byte) (b : Byte), lrcOf (s ++ [b]) = xor8 (lrcOf s) b) ∧
  (∀ (s : List Byte) (i : Nat), i < 8 →
    ((lrcOf s).getLsbD i = true ↔ (s.countP (fun b => b.getLsbD i)) % 2 = 1))

/-- R112 (derived in the spec from R110), R113, R114: LRC.CLR, LRC.UPD and LRC.RD, with their frames (the
register they act on is log entry 3). -/
def Obligations.LrcOperationsActOnUnitRegister : Prop :=
  hasOpx .lrcClr 0x00#8 ∧
  (∀ s : State, ∃ res, exec .lrcClr s = .next { s with lrc := 0x00#8, result := res }) ∧
  (∀ (b : Byte) (s : State),
    hasOpx (.lrcUpd b) 0x01#8 ∧
    ∃ res, exec (.lrcUpd b) s = .next { s with lrc := xor8 s.lrc b, result := res }) ∧
  hasOpx .lrcRd 0x02#8 ∧
  ∀ s : State, exec .lrcRd s = .next { s with result := some (.byte s.lrc) }

/-- R116, the unit law (derived in the spec): CLR, any updates, RD returns `LRC` of the bytes. -/
def Obligations.LrcUnitComputesLrc : Prop :=
  ∀ (bs : List Byte) (s : State),
    runOps (.lrcClr :: (bs.map Instr.lrcUpd ++ [.lrcRd])) s =
      .next { s with lrc := lrcOf bs, result := some (.byte (lrcOf bs)) }

/-- R117 laws L2 to L7 (derived in the spec): the algebra of the checksum, and which differences it sees. -/
def Obligations.LrcAlgebraicLaws : Prop :=
  (∀ s t : List Byte, lrcOf (s ++ t) = xor8 (lrcOf s) (lrcOf t)) ∧
  (∀ s : List Byte, lrcOf (s ++ [lrcOf s]) = 0x00#8) ∧
  (∀ s t : List Byte, s.Perm t → lrcOf s = lrcOf t) ∧
  (∀ s t : List Byte, lrcOf (s ++ [0x00#8] ++ t) = lrcOf (s ++ t)) ∧
  (∀ (s t u : List Byte) (b : Byte), lrcOf (s ++ [b] ++ t ++ [b] ++ u) = lrcOf (s ++ t ++ u)) ∧
  (∀ s t : List Byte, s.length = t.length →
    (lrcOf s = lrcOf t ↔
      ∀ i : Nat, i < 8 → ((s.zip t).countP (fun p => p.1.getLsbD i != p.2.getLsbD i)) % 2 = 0)) ∧
  (∀ (pre post : List Byte) (a b : Byte), a ≠ b →
    xor8 (lrcOf (pre ++ [a] ++ post)) (lrcOf (pre ++ [b] ++ post)) = xor8 a b ∧
    lrcOf (pre ++ [a] ++ post) ≠ lrcOf (pre ++ [b] ++ post))

/-! ## The encoder (41_frame_encode.md) -/

/-- R120: ENC, with its frame. -/
def Obligations.EncEncodesOrFrameTooLarge : Prop :=
  ∀ (cmd sub : Field2) (data : List Byte) (s : State),
    let body := [cmd.b0, cmd.b1] ++ [sub.b0, sub.b1] ++ data ++ [0x03#8]
    hasOpx (.enc cmd sub data) 0x03#8 ∧
    exec (.enc cmd sub data) s = .next { s with
      result := some (if data.length > s.params.maxData then .status .frameTooLarge
        else .bytes ([0x02#8] ++ body ++ [lrcOf body])) }

/-- R123 E1 to E4 (derived in the spec): length, layout, zero sum, injectivity. -/
def Obligations.EncodeLayoutAndInjectivity : Prop :=
  (∀ (maxData : Nat) (cmd sub : Field2) (data f : List Byte), frameEncode maxData cmd sub data = some f →
    f.length = data.length + 7 ∧ f.length ≤ Config.maxFrame maxData ∧
    f[0]? = some 0x02#8 ∧ slice f 1 2 = cmd.toList ∧ slice f 3 4 = sub.toList ∧
    (f.drop 5).take data.length = data ∧ f[5 + data.length]? = some 0x03#8 ∧
    f[6 + data.length]? = some (lrcOf (slice f 1 (5 + data.length))) ∧ lrcOf (f.drop 1) = 0x00#8) ∧
  (∀ (maxData : Nat) (c1 c2 u1 u2 : Field2) (d1 d2 f : List Byte),
    frameEncode maxData c1 u1 d1 = some f → frameEncode maxData c2 u2 d2 = some f →
    c1 = c2 ∧ u1 = u2 ∧ d1 = d2)

/-- R124: TX.EMIT where it is enabled, byte by byte, with its frame; and where it is not. -/
def Obligations.TxEmitSendsNextByte : Prop :=
  hasOpx .txEmit 0x04#8 ∧
  (∀ (s : State) (q : Request) (idx : Nat),
    s.link = .opened → s.cur = some { req := q, idx := idx } → idx < q.data.length + 7 →
    ∃ (b : Byte) (res : Option Result),
      exec .txEmit s = .next { s with
        txLog := s.txLog ++ [b]
        lrcTx := if 1 ≤ idx ∧ idx ≤ 5 + q.data.length then xor8 s.lrcTx b else s.lrcTx
        cur := some { req := q, idx := idx + 1 }
        result := res } ∧
      (idx = 0 → b = 0x02#8) ∧
      (1 ≤ idx → idx ≤ 2 → q.cmd.toList[idx - 1]? = some b) ∧
      (3 ≤ idx → idx ≤ 4 → q.sub.toList[idx - 3]? = some b) ∧
      (5 ≤ idx → idx ≤ 4 + q.data.length → q.data[idx - 5]? = some b) ∧
      (idx = 5 + q.data.length → b = 0x03#8) ∧
      (idx = 6 + q.data.length → b = s.lrcTx)) ∧
  (∀ s : State, s.link = .closed → exec .txEmit s = .refused (.notEnabled .linkIsClosed)) ∧
  (∀ s : State, s.link = .opened → s.cur = none → exec .txEmit s = .refused (.notEnabled .noWriteInProgress)) ∧
  (∀ (s : State) (q : Request) (idx : Nat), s.link = .opened → s.cur = some { req := q, idx := idx } →
    q.data.length + 7 ≤ idx → exec .txEmit s = .refused (.notEnabled .frameAllEmitted))

/-- R125, R126 (derived in the spec): under the invariants the byte that TX.EMIT sends is the byte of
`Encode` at that index, which is EncByte. -/
def Obligations.TxEmitSendsEncodedByte : Prop :=
  ∀ (s t : State) (q : Request) (idx : Nat), Invariants s → s.cur = some { req := q, idx := idx } →
    exec .txEmit s = .next t →
    ∃ f b, frameEncode s.params.maxData q.cmd q.sub q.data = some f ∧ f[idx]? = some b ∧
      encByte q idx = b ∧ t.txLog = s.txLog ++ [b]

/-- R126, R184 (derived in the spec): an uninterrupted write puts exactly its encoded frame on the TX
stream and ends with `Ok(L + 7)`; everything else is as before (that `result` is then empty is log
entry 5). -/
def Obligations.UninterruptedWriteSendsItsFrame : Prop :=
  ∀ (s : State) (q : Request) (rest : List Request) (f : List Byte),
    s.link = .opened → s.cur = none → s.wq = q :: rest →
    frameEncode s.params.maxData q.cmd q.sub q.data = some f →
    runOps (.wrGrant :: (List.replicate (q.data.length + 7) .txEmit ++ [.wrDone])) s =
      .next { s with
        wq := rest
        txLog := s.txLog ++ f
        doneLog := s.doneLog ++ [(q.r, .ok (some (q.data.length + 7)))]
        lrcTx := lrcOf (slice f 1 (5 + q.data.length))
        result := none }

/-! ## The decoder (42_frame_decode.md) -/

/-- R135, R141: DEC hands over the outcome of Decode and changes nothing else. -/
def Obligations.DecReportsOutcomeAndChangesNothing : Prop :=
  ∀ (buf : List Byte) (s : State),
    hasOpx (.dec buf) 0x05#8 ∧
    exec (.dec buf) s = .next { s with result := some (.decoded (frameDecode s.params.maxData buf)) }

/-- R137 (derived in the spec): NeedMoreBytes arises in exactly three situations, and in each the buffer is
at most `MAX_DATA + 6` long. -/
def Obligations.NeedMoreBytesExactlyThreeWays : Prop :=
  ∀ (maxData : Nat) (buf : List Byte),
    (frameDecode maxData buf = .needMoreBytes ↔
      buf = [] ∨
      (buf.head? = some 0x02#8 ∧ buf.length ≤ 5 + maxData ∧ 0x03#8 ∉ buf.drop 5) ∨
      (∃ h d : List Byte, buf = 0x02#8 :: (h ++ d ++ [0x03#8]) ∧ h.length = 4 ∧ d.length ≤ maxData ∧ 0x03#8 ∉ d)) ∧
    (frameDecode maxData buf = .needMoreBytes → buf.length ≤ maxData + 6)

/-- R138: bytes before the first STX, or a whole buffer without STX, are Invalid; what is left after the
drop is empty or begins with STX. -/
def Obligations.LeadingGarbageIsInvalid : Prop :=
  ∀ (maxData : Nat) (g rest : List Byte), g ≠ [] → 0x02#8 ∉ g → (rest = [] ∨ rest.head? = some 0x02#8) →
    frameDecode maxData (g ++ rest) = .invalid g.length

/-- R139: a candidate whose `MAX_DATA + 1` offsets from 5 on hold no ETX is Invalid up to the next STX. -/
def Obligations.OverlongCandidateIsInvalid : Prop :=
  ∀ (maxData : Nat) (g rest : List Byte),
    0x02#8 ∉ g → (rest = [] ∨ rest.head? = some 0x02#8) →
    maxData + 6 ≤ (0x02#8 :: (g ++ rest)).length →
    0x03#8 ∉ ((0x02#8 :: (g ++ rest)).drop 5).take (maxData + 1) →
    frameDecode maxData (0x02#8 :: (g ++ rest)) = .invalid (g.length + 1)

/-- R140: a complete candidate is a Frame with its fields by position if the checksums agree, else a
ChecksumError; what stands behind it is not looked at. -/
def Obligations.CompleteCandidateIsChecked : Prop :=
  ∀ (maxData : Nat) (c0 c1 u0 u1 l : Byte) (data rest : List Byte),
    data.length ≤ maxData → 0x03#8 ∉ data →
    frameDecode maxData ([0x02#8, c0, c1, u0, u1] ++ data ++ [0x03#8, l] ++ rest) =
      if lrcOf ([c0, c1, u0, u1] ++ data ++ [0x03#8]) = l then
        .frame { b0 := c0, b1 := c1 } { b0 := u0, b1 := u1 } data (data.length + 7)
      else .checksumError (data.length + 7)

/-- R142 (derived in the spec): every outcome but NeedMoreBytes makes progress within the buffer. -/
def Obligations.DecodeOutcomesMakeProgress : Prop :=
  ∀ (maxData : Nat) (buf : List Byte),
    (∀ k, frameDecode maxData buf = .invalid k → 1 ≤ k ∧ k ≤ buf.length) ∧
    (∀ k, frameDecode maxData buf = .checksumError k →
      7 ≤ k ∧ k ≤ buf.length ∧ k ≤ Config.maxFrame maxData) ∧
    (∀ cmd sub data k, frameDecode maxData buf = .frame cmd sub data k →
      k = data.length + 7 ∧ k ≤ buf.length ∧ k ≤ Config.maxFrame maxData)

/-- R143, first part (derived in the spec): the round trip of the wire frame, with anything behind it. -/
def Obligations.DecodeOfEncodeIsTheFrame : Prop :=
  ∀ (maxData : Nat) (cmd sub : Field2) (data f t : List Byte),
    frameEncode maxData cmd sub data = some f → 0x03#8 ∉ data →
    frameDecode maxData (f ++ t) = .frame cmd sub data (data.length + 7)

/-- R143, second part (derived in the spec): an ETX in DATA ends the frame there; the original fields are
never returned. -/
def Obligations.EtxInDataCutsTheFrame : Prop :=
  ∀ (maxData : Nat) (cmd sub : Field2) (pre post f : List Byte),
    0x03#8 ∉ pre → frameEncode maxData cmd sub (pre ++ [0x03#8] ++ post) = some f →
    frameDecode maxData f =
      if some (lrcOf (cmd.toList ++ sub.toList ++ pre ++ [0x03#8])) = f[pre.length + 6]? then
        .frame cmd sub pre (pre.length + 7)
      else .checksumError (pre.length + 7)

/-- R144 (derived in the spec): an outcome, once reached, does not depend on later bytes. -/
def Obligations.DecodeOutcomeSurvivesExtension : Prop :=
  ∀ (maxData : Nat) (buf t : List Byte),
    (∀ cmd sub data k, frameDecode maxData buf = .frame cmd sub data k →
      frameDecode maxData (buf ++ t) = .frame cmd sub data k) ∧
    (∀ k, frameDecode maxData buf = .checksumError k → frameDecode maxData (buf ++ t) = .checksumError k) ∧
    (∀ k, frameDecode maxData buf = .invalid k → k < buf.length → frameDecode maxData (buf ++ t) = .invalid k) ∧
    (frameDecode maxData buf = .invalid buf.length →
      ∃ k, buf.length ≤ k ∧ frameDecode maxData (buf ++ t) = .invalid k)

/-- R145 S1, S2, S5 (derived in the spec): a flipped bit in the header, in DATA unless the byte becomes
ETX, or in the LRC byte is always detected. -/
def Obligations.SingleBitFlipIsDetected : Prop :=
  ∀ (maxData : Nat) (cmd sub : Field2) (data f : List Byte) (p k : Nat) (b : Byte),
    frameEncode maxData cmd sub data = some f → 0x03#8 ∉ data → k < 8 → f[p]? = some b →
    (1 ≤ p ∧ p ≤ 4 + data.length ∨ p = 6 + data.length) →
    (5 ≤ p → p ≤ 4 + data.length → b ^^^ BitVec.twoPow 8 k ≠ 0x03#8) →
    frameDecode maxData (f.set p (b ^^^ BitVec.twoPow 8 k)) = .checksumError (data.length + 7)

/-- R145 S3, S4, S6 (derived in the spec): the flips that move a marker. -/
def Obligations.SingleBitFlipOfMarker : Prop :=
  ∀ (maxData : Nat) (cmd sub : Field2) (data f : List Byte) (p k : Nat) (b : Byte),
    frameEncode maxData cmd sub data = some f → 0x03#8 ∉ data → k < 8 → f[p]? = some b →
    (5 ≤ p → p ≤ 4 + data.length → b ^^^ BitVec.twoPow 8 k = 0x03#8 →
      frameDecode maxData (f.set p (b ^^^ BitVec.twoPow 8 k)) =
        if some (lrcOf (slice f 1 (p - 1) ++ [0x03#8])) = f[p + 1]? then
          .frame cmd sub (data.take (p - 5)) (p + 2)
        else .checksumError (p + 2)) ∧
    (p = 5 + data.length →
      frameDecode maxData (f.set p (b ^^^ BitVec.twoPow 8 k)) = .needMoreBytes ∨
      ∃ drop, frameDecode maxData (f.set p (b ^^^ BitVec.twoPow 8 k)) = .invalid drop) ∧
    (p = 0 → frameDecode maxData (f.set p (b ^^^ BitVec.twoPow 8 k)) =
      .invalid (1 + ((f.drop 1).takeWhile (fun x => x != 0x02#8)).length))

/-! ## The accumulator (43_accumulator.md) -/

/-- R155: RX.PUSH where it is enabled, with its frame; and where it is not. -/
def Obligations.RxPushAppendsReceivedByte : Prop :=
  ∀ (b : Byte) (s : State),
    hasOpx (.rxPush b) 0x06#8 ∧
    (s.link = .opened → frameDecode s.params.maxData s.acc = .needMoreBytes →
      ∃ res, exec (.rxPush b) s = .next { s with
        acc := s.acc ++ [b], rxLog := s.rxLog ++ [b], result := res }) ∧
    (s.link = .closed → exec (.rxPush b) s = .refused (.notEnabled .linkIsClosed)) ∧
    (s.link = .opened → frameDecode s.params.maxData s.acc ≠ .needMoreBytes →
      exec (.rxPush b) s = .refused (.notEnabled .notQuiescent))

/-- R157: ACC.STEP on each outcome of Decode, with its frame; and where it is not enabled. -/
def Obligations.AccStepResolvesOneOutcome : Prop :=
  hasOpx .accStep 0x07#8 ∧
  ∀ s : State,
    (s.link = .opened → ∀ cmd sub data used,
      frameDecode s.params.maxData s.acc = .frame cmd sub data used →
      ∃ res, exec .accStep s = .next { s with
        acc := s.acc.drop used
        frameLog := s.frameLog ++ [{ cmd := cmd, sub := sub, data := data }], result := res }) ∧
    (s.link = .opened → ∀ used, frameDecode s.params.maxData s.acc = .checksumError used →
      ∃ res, exec .accStep s = .next { s with
        acc := s.acc.drop used, diagLog := s.diagLog ++ [.checksumDiscard used], result := res }) ∧
    (s.link = .opened → ∀ drop, frameDecode s.params.maxData s.acc = .invalid drop →
      ∃ res, exec .accStep s = .next { s with
        acc := s.acc.drop drop, diagLog := s.diagLog ++ [.invalidDiscard drop], result := res }) ∧
    (s.link = .opened → frameDecode s.params.maxData s.acc = .needMoreBytes →
      exec .accStep s = .refused (.notEnabled .quiescent)) ∧
    (s.link = .closed → exec .accStep s = .refused (.notEnabled .linkIsClosed)) ∧
    (∀ t, exec .accStep s = .next t → t.acc.length < s.acc.length)

/-- R162, R164 (derived in the spec): the decode loop ends quiescent within `len(acc)` steps, and a quiescent
accumulator is short and empty or begins with STX. -/
def Obligations.DecodeLoopEndsQuiescent : Prop :=
  (∀ s : State, quiescent (drainSteps s.acc.length s) = true) ∧
  (∀ s : State, quiescent s = true →
    s.acc.length ≤ s.params.maxData + 6 ∧ (s.acc = [] ∨ s.acc.head? = some 0x02#8))

/-- R84 (derived in the spec): what each byte class means by its position: before a candidate, in the
header, in DATA, as the end of DATA, and as the LRC byte. Receiving a wire row as one step is the model's
(log entry 7). -/
def Obligations.ByteClassMeansItsPosition : Prop :=
  ∀ (i : Instr) (b : Byte) (s : State), isWireByte i b → s.link = .opened →
    (s.acc = [] → b = 0x02#8 → exec i s = .next { s with
      acc := [b], rxLog := s.rxLog ++ [b], result := none }) ∧
    (s.acc = [] → b ≠ 0x02#8 → exec i s = .next { s with
      rxLog := s.rxLog ++ [b], diagLog := s.diagLog ++ [.invalidDiscard 1], result := none }) ∧
    (∀ h : List Byte, s.acc = 0x02#8 :: h → h.length < 4 → exec i s = .next { s with
      acc := s.acc ++ [b], rxLog := s.rxLog ++ [b], result := none }) ∧
    (∀ h d : List Byte, s.acc = 0x02#8 :: (h ++ d) → h.length = 4 → 0x03#8 ∉ d →
      (d.length < s.params.maxData ∨ d.length = s.params.maxData ∧ b = 0x03#8) →
      exec i s = .next { s with acc := s.acc ++ [b], rxLog := s.rxLog ++ [b], result := none }) ∧
    (∀ h d : List Byte, s.acc = 0x02#8 :: (h ++ d ++ [0x03#8]) → h.length = 4 → 0x03#8 ∉ d →
      d.length ≤ s.params.maxData →
      (lrcOf (h ++ d ++ [0x03#8]) ≠ b → exec i s = .next { s with
        acc := [], rxLog := s.rxLog ++ [b]
        diagLog := s.diagLog ++ [.checksumDiscard (d.length + 7)], result := none }) ∧
      (lrcOf (h ++ d ++ [0x03#8]) = b → ∃ f : Frame,
        f.cmd.toList ++ f.sub.toList = h ∧ f.data = d ∧
        exec i s = .next { s with
          acc := [], rxLog := s.rxLog ++ [b], frameLog := s.frameLog ++ [f], result := none }))

/-- R99, R165 (derived in the spec; a wire row as one step is log entry 7): on an open link every wire row
of the table feeds its bytes to the accumulator and does nothing else; while the link is Closed received
bytes never reach the block (R155, R251). -/
def Obligations.WireRowsFeedTheAccumulator : Prop :=
  feedsAccumulator .stx [0x02#8] ∧
  feedsAccumulator .etx [0x03#8] ∧
  (∀ b : Byte, feedsAccumulator (.other b) [b]) ∧
  feedsAccumulator .hdrMcDc [0x02#8, 0x4D#8, 0x43#8, 0x44#8, 0x43#8] ∧
  feedsAccumulator .hdrRqId [0x02#8, 0x52#8, 0x51#8, 0x49#8, 0x44#8] ∧
  feedsAccumulator .hdrRqIw [0x02#8, 0x52#8, 0x51#8, 0x49#8, 0x57#8] ∧
  feedsAccumulator .hdrMcLz [0x02#8, 0x4D#8, 0x43#8, 0x4C#8, 0x5A#8] ∧
  feedsAccumulator .hdrRqMi [0x02#8, 0x52#8, 0x51#8, 0x4D#8, 0x49#8] ∧
  feedsAccumulator .hdrRqEr [0x02#8, 0x52#8, 0x51#8, 0x45#8, 0x52#8] ∧
  feedsAccumulator .hdrMcEz [0x02#8, 0x4D#8, 0x43#8, 0x45#8, 0x5A#8] ∧
  feedsAccumulator .hdrMcWp [0x02#8, 0x4D#8, 0x43#8, 0x57#8, 0x50#8] ∧
  feedsAccumulator .hdrMcPd [0x02#8, 0x4D#8, 0x43#8, 0x50#8, 0x44#8] ∧
  feedsAccumulator .hdrMcRt [0x02#8, 0x4D#8, 0x43#8, 0x52#8, 0x54#8] ∧
  (∀ (c u : Field2) (l : Byte),
    feedsAccumulator (.frameL0 c u l) [0x02#8, c.b0, c.b1, u.b0, u.b1, 0x03#8, l]) ∧
  (∀ (c u : Field2) (d l : Byte),
    feedsAccumulator (.frameL1 c u d l) [0x02#8, c.b0, c.b1, u.b0, u.b1, d, 0x03#8, l]) ∧
  (∀ (i : Instr) (s : State), i.format ≠ .op5 → s.link = .closed → exec i s = .next { s with result := none })

/-- R80, R81, R157, R158, R160 (derived; a row as one step is log entry 7): from an empty accumulator a
received frame pattern with no DATA byte, or with one that is not ETX, is delivered when its last byte is the
XOR of command through ETX, and discarded as a whole otherwise. -/
def Obligations.FrameRowsDeliverOrDiscard : Prop :=
  ∀ (c u : Field2) (d l : Byte) (s : State), s.link = .opened → s.acc = [] →
    (exec (.frameL0 c u l) s =
      if xor8 (lrcOf (c.toList ++ u.toList)) 0x03#8 = l then
        .next { s with
          rxLog := s.rxLog ++ [0x02#8, c.b0, c.b1, u.b0, u.b1, 0x03#8, l]
          frameLog := s.frameLog ++ [{ cmd := c, sub := u, data := [] }], result := none }
      else
        .next { s with
          rxLog := s.rxLog ++ [0x02#8, c.b0, c.b1, u.b0, u.b1, 0x03#8, l]
          diagLog := s.diagLog ++ [.checksumDiscard 7], result := none }) ∧
    (d ≠ 0x03#8 → 1 ≤ s.params.maxData → exec (.frameL1 c u d l) s =
      if xor8 (lrcOf (c.toList ++ u.toList ++ [d])) 0x03#8 = l then
        .next { s with
          rxLog := s.rxLog ++ [0x02#8, c.b0, c.b1, u.b0, u.b1, d, 0x03#8, l]
          frameLog := s.frameLog ++ [{ cmd := c, sub := u, data := [d] }], result := none }
      else
        .next { s with
          rxLog := s.rxLog ++ [0x02#8, c.b0, c.b1, u.b0, u.b1, d, 0x03#8, l]
          diagLog := s.diagLog ++ [.checksumDiscard 8], result := none })

/-- R166 (derived in the spec): chunking does not matter: the same final buffer, the same FRAME and
ChecksumDiscard events in order, and the same number of garbage bytes. -/
def Obligations.ChunkingDoesNotMatter : Prop :=
  ∀ (maxData : Nat) (chunks : List (List Byte)),
    let whole := drainOf maxData chunks.flatten
    let chunked := feedChunks maxData [] chunks
    let bytewise := feed maxData [] chunks.flatten
    chunked.2 = whole.2 ∧ withoutGarbage chunked.1 = withoutGarbage whole.1 ∧
      garbageTotal chunked.1 = garbageTotal whole.1 ∧
    bytewise.2 = whole.2 ∧ withoutGarbage bytewise.1 = withoutGarbage whole.1 ∧
      garbageTotal bytewise.1 = garbageTotal whole.1

/-- R167 (derived in the spec): garbage without STX around two frames yields exactly the two frames. -/
def Obligations.ResynchronisesOnTwoFrames : Prop :=
  ∀ (maxData : Nat) (g0 g1 g2 f1 f2 : List Byte) (m1 m2 : Frame),
    0x02#8 ∉ g0 → 0x02#8 ∉ g1 → 0x02#8 ∉ g2 → 0x03#8 ∉ m1.data → 0x03#8 ∉ m2.data →
    frameEncode maxData m1.cmd m1.sub m1.data = some f1 →
    frameEncode maxData m2.cmd m2.sub m2.data = some f2 →
    let r := feed maxData [] (g0 ++ f1 ++ g1 ++ f2 ++ g2)
    withoutGarbage r.1 = [.frame m1, .frame m2] ∧
    garbageTotal r.1 = g0.length + g1.length + g2.length ∧ r.2 = []

/-! ## The link and the arbiter (44_transport_arbiter.md) -/

/-- R177: LINK.OPEN in every state and for either draw, with its frame. -/
def Obligations.LinkOpenOpensOrFails : Prop :=
  ∀ (portOk : Bool) (s : State),
    hasOpx (.linkOpen portOk) 0x08#8 ∧
    exec (.linkOpen portOk) s =
      if s.link = .opened then .next { s with result := some (.status .connectionError) }
      else if portOk = true then
        .next { s with link := .opened, acc := [], wq := [], cur := none, result := some (.status (.ok none)) }
      else .next { s with result := some (.status .connectionError) }

/-- R178: LINK.CLOSE in every state, with its frame. -/
def Obligations.LinkCloseReleasesEveryRequester : Prop :=
  hasOpx .linkClose 0x09#8 ∧
  ∀ s : State,
    (s.link = .closed → ∃ res, exec .linkClose s = .next { s with result := res }) ∧
    (s.link = .opened → s.cur = none → ∃ res, exec .linkClose s = .next { s with
      doneLog := s.doneLog ++ s.wq.map (fun q => (q.r, .linkClosed))
      wq := [], cur := none, acc := [], link := .closed, result := res }) ∧
    (∀ a, s.link = .opened → s.cur = some a → ∃ res, exec .linkClose s = .next { s with
      doneLog := s.doneLog ++ (a.req.r, .linkClosed) :: s.wq.map (fun q => (q.r, .linkClosed))
      wq := [], cur := none, acc := [], link := .closed, result := res })

/-- R179: LINK.TERR, with its frame; not enabled while Closed. -/
def Obligations.LinkTerrFailsTheWriter : Prop :=
  hasOpx .linkTerr 0x0A#8 ∧
  ∀ s : State,
    (s.link = .closed → exec .linkTerr s = .refused (.notEnabled .linkIsClosed)) ∧
    (s.link = .opened → s.cur = none → ∃ res, exec .linkTerr s = .next { s with
      doneLog := s.doneLog ++ s.wq.map (fun q => (q.r, .linkClosed))
      diagLog := s.diagLog ++ [.transportFailure]
      wq := [], cur := none, acc := [], link := .closed, result := res }) ∧
    (∀ a, s.link = .opened → s.cur = some a → ∃ res, exec .linkTerr s = .next { s with
      doneLog := s.doneLog ++ (a.req.r, .transportError) :: s.wq.map (fun q => (q.r, .linkClosed))
      diagLog := s.diagLog ++ [.transportFailure]
      wq := [], cur := none, acc := [], link := .closed, result := res })

/-- R180: WR.REQ of a requester that is not outstanding, with its frame; a requester that is outstanding,
or no requester of this machine, has no such operation (R293). -/
def Obligations.WrReqQueuesOrCompletesAtOnce : Prop :=
  ∀ (r : Nat) (cmd sub : Field2) (data : List Byte) (s : State),
    hasOpx (.wrReq r cmd sub data) 0x0B#8 ∧
    (r < s.params.nreq → r ∉ outstanding s → data.length > s.params.maxData →
      ∃ res, exec (.wrReq r cmd sub data) s = .next { s with
        doneLog := s.doneLog ++ [(r, .frameTooLarge)], result := res }) ∧
    (r < s.params.nreq → r ∉ outstanding s → data.length ≤ s.params.maxData → s.link = .closed →
      ∃ res, exec (.wrReq r cmd sub data) s = .next { s with
        doneLog := s.doneLog ++ [(r, .linkClosed)], result := res }) ∧
    (r < s.params.nreq → r ∉ outstanding s → data.length ≤ s.params.maxData → s.link = .opened →
      ∃ res, exec (.wrReq r cmd sub data) s = .next { s with
        wq := s.wq ++ [{ r := r, cmd := cmd, sub := sub, data := data }], result := res }) ∧
    (r < s.params.nreq → r ∈ outstanding s →
      exec (.wrReq r cmd sub data) s = .refused (.requesterOutstanding r)) ∧
    (s.params.nreq ≤ r → exec (.wrReq r cmd sub data) s = .refused (.noSuchRequester r))

/-- R181: WR.GRANT, with its frame; and where it is not enabled. -/
def Obligations.WrGrantStartsTheOldest : Prop :=
  hasOpx .wrGrant 0x0C#8 ∧
  ∀ s : State,
    (∀ q rest, s.link = .opened → s.cur = none → s.wq = q :: rest →
      ∃ res, exec .wrGrant s = .next { s with
        cur := some { req := q, idx := 0 }, wq := rest, lrcTx := 0x00#8, result := res }) ∧
    (s.link = .closed → exec .wrGrant s = .refused (.notEnabled .linkIsClosed)) ∧
    (∀ a, s.link = .opened → s.cur = some a → exec .wrGrant s = .refused (.notEnabled .writeInProgress)) ∧
    (s.link = .opened → s.cur = none → s.wq = [] → exec .wrGrant s = .refused (.notEnabled .queueEmpty))

/-- R182: WR.DONE, with its frame; and where it is not enabled. -/
def Obligations.WrDoneReportsBytesWritten : Prop :=
  hasOpx .wrDone 0x0D#8 ∧
  ∀ s : State,
    (∀ q, s.cur = some { req := q, idx := q.data.length + 7 } →
      ∃ res, exec .wrDone s = .next { s with
        doneLog := s.doneLog ++ [(q.r, .ok (some (q.data.length + 7)))], cur := none, result := res }) ∧
    (∀ q idx, s.cur = some { req := q, idx := idx } → idx ≠ q.data.length + 7 →
      exec .wrDone s = .refused (.notEnabled .frameNotAllEmitted)) ∧
    (s.cur = none → exec .wrDone s = .refused (.notEnabled .noWriteInProgress))

/-- R176 (derived in the spec): the transitions of the arbiter's control state, over every instruction. -/
def Obligations.ControlStateTransitions : Prop :=
  ∀ (i : Instr) (s t : State), Invariants s → exec i s = .next t →
    controlState t = controlState s ∨
    (i = .linkOpen true ∧ controlState s = .closed ∧ controlState t = .idle) ∨
    ((i = .linkClose ∨ i = .linkTerr) ∧ controlState t = .closed) ∨
    (i = .wrGrant ∧ controlState s = .idle ∧ controlState t = .busy) ∨
    (i = .wrDone ∧ controlState s = .busy ∧ controlState t = .idle)

/-- R185 (b), (d) (derived in the spec): the queue is FIFO, over every instruction. R25, R31, R300 (c): `NREQ`
entries suffice, a requester has at most `NREQ - 1` others before it, and no frame is longer than
`MAX_FRAME`. -/
def Obligations.QueueIsFirstInFirstOut : Prop :=
  (∀ (i : Instr) (s t : State), exec i s = .next t →
    t.wq = s.wq ∨
    (∃ q, i = .wrReq q.r q.cmd q.sub q.data ∧ t.wq = s.wq ++ [q]) ∨
    (∃ q, i = .wrGrant ∧ s.wq = q :: t.wq ∧ t.cur = some { req := q, idx := 0 }) ∨
    (t.wq = [] ∧ (i = .linkClose ∨ i = .linkTerr ∨ i = .linkOpen true))) ∧
  ∀ s : State, Invariants s →
    (outstanding s).length ≤ s.params.nreq ∧
    (∀ before r behind, outstanding s = before ++ r :: behind → before.length ≤ s.params.nreq - 1) ∧
    (∀ q ∈ s.wq, frameLength q ≤ Config.maxFrame s.params.maxData) ∧
    ∀ a, s.cur = some a → frameLength a.req ≤ Config.maxFrame s.params.maxData

/-- R185 (c) and R128: a write in progress keeps its request, and its index only counts up by one per
TX.EMIT, until the operation that ends it. -/
def Obligations.WriteInProgressIsImmutable : Prop :=
  ∀ (i : Instr) (s t : State) (a : Active), exec i s = .next t → s.cur = some a →
    t.cur = some a ∨ (i = .txEmit ∧ t.cur = some { a with idx := a.idx + 1 }) ∨
    (t.cur = none ∧ (i = .wrDone ∨ i = .linkClose ∨ i = .linkTerr ∨ i = .linkOpen true))

/-- R183 (derived in the spec): a request is completed exactly once: whatever happens, the requesters
completed by an operation and those outstanding after it are those outstanding before it and the new one. -/
def Obligations.EveryRequestCompletesOnce : Prop :=
  ∀ (i : Instr) (s t : State), Invariants s → exec i s = .next t →
    ∃ new : List (Nat × Status), t.doneLog = s.doneLog ++ new ∧
      (new.map Prod.fst ++ outstanding t).Perm (outstanding s ++ requested i)

/-- R60 (O6) (derived in the spec): the TX side and the RX side share no state except `link`. Neither changes
the other's elements or histories; and with those replaced by any others, an operation is enabled, refused and
acts on its own side exactly as before. -/
def Obligations.TransmitAndReceiveAreSeparate : Prop :=
  ∀ (i : Instr) (s : State),
    ((∃ b, i = .rxPush b) ∨ i = .accStep ∨ i.format ≠ .op5 →
      (∀ t, exec i s = .next t →
        t.link = s.link ∧ t.lrcTx = s.lrcTx ∧ t.wq = s.wq ∧ t.cur = s.cur ∧
        t.txLog = s.txLog ∧ t.doneLog = s.doneLog) ∧
      ∀ u : State, exec i (withTxSide u s) = onNext (withTxSide u) (exec i s)) ∧
    ((∃ r cmd sub data, i = .wrReq r cmd sub data) ∨ i = .wrGrant ∨ i = .txEmit ∨ i = .wrDone →
      (∀ t, exec i s = .next t →
        t.link = s.link ∧ t.acc = s.acc ∧ t.rxLog = s.rxLog ∧ t.frameLog = s.frameLog ∧
        t.diagLog = s.diagLog) ∧
      ∀ u : State, exec i (withRxSide u s) = onNext (withRxSide u) (exec i s))

/-- R186, R282 (derived in the spec): while the link is Closed only LINK.OPEN, LINK.CLOSE, WR.REQ and the
pure operations have a step, and nothing enters the byte streams or the frame sink. -/
def Obligations.ClosedLinkAdmitsNoTraffic : Prop :=
  ∀ s : State, Invariants s → s.link = .closed →
    (∀ i, (∃ b, i = .rxPush b) ∨ i = .accStep ∨ i = .wrGrant ∨ i = .txEmit ∨ i = .wrDone ∨ i = .linkTerr →
      ∃ why, exec i s = .refused (.notEnabled why)) ∧
    (∀ i t, exec i s = .next t →
      t.txLog = s.txLog ∧ t.rxLog = s.rxLog ∧ t.frameLog = s.frameLog ∧ t.diagLog = s.diagLog ∧
      t.wq = [] ∧ t.cur = none ∧ t.acc = [])

/-- R115, R254: `lrc_tx` is driven only by WR.GRANT and TX.EMIT, and the register of a unit by itself only
by the unit's operations (that the two are apart is log entry 3). -/
def Obligations.LrcRegistersHaveTheirDrivers : Prop :=
  ∀ (i : Instr) (s t : State), exec i s = .next t →
    (i ≠ .wrGrant → i ≠ .txEmit → t.lrcTx = s.lrcTx) ∧
    (i ≠ .lrcClr → (∀ b, i ≠ .lrcUpd b) → t.lrc = s.lrc)

/-- R96, results column: LRC.RD, ENC, DEC and LINK.OPEN hand over a result, no other row of the table does
(the field is log entry 5). -/
def Obligations.FourOperationsHandOverAResult : Prop :=
  ∀ (i : Instr) (s t : State), exec i s = .next t →
    (t.result.isSome = true ↔
      i = .lrcRd ∨ (∃ cmd sub data, i = .enc cmd sub data) ∨ (∃ buf, i = .dec buf) ∨ ∃ ok, i = .linkOpen ok)

/-- R300 (a), (b): in every fair run, whatever else happens, an accepted write is completed with Ok, LinkClosed
or TransportError (a reset, which completes nobody, may come instead, R281), and the accumulator becomes
quiescent again and again. Fairness is a premise on the run, not a property of the machine's draws (log entry
13). -/
def Obligations.FairRunsCompleteWritesAndDrain : Prop :=
  ∀ (draw : Nat → Event) (run : Nat → State), isRun draw run → weaklyFair draw run → Invariants (run 0) →
    (∀ n r, r ∈ outstanding (run n) →
      ∃ m, n ≤ m ∧
        (dueEvent draw (run m) = .resetPin ∨
          ∃ st, completedAt run m r st ∧
            ((∃ k, st = .ok (some k)) ∨ st = .linkClosed ∨ st = .transportError))) ∧
    ∀ n, ∃ m, n ≤ m ∧ quiescent (run m) = true

/-! ## Reset, the step, the invariants -/

/-- R33: the reset values; R51: "After reset all five are empty." -/
def Obligations.ResetValues : Prop :=
  State.reset.link = .closed ∧ State.reset.lrcTx = 0x00#8 ∧ State.reset.acc = [] ∧ State.reset.wq = [] ∧
  State.reset.cur = none ∧
  State.reset.txLog = [] ∧ State.reset.rxLog = [] ∧ State.reset.frameLog = [] ∧ State.reset.diagLog = [] ∧
  State.reset.doneLog = []

/-- R281: the reset pin, in any state, with its frame; no completion and no DIAG event. That the histories
keep what they hold is log entry 9; that the host then releases its callers is log entry 6; that its callers
stay inside their scopes is log entry 19. -/
def Obligations.ResetPinClearsTheBlock : Prop :=
  ∀ (s : State) (rest : List Event), s.env = .resetPin :: rest →
    step s = .next { s with
      link := .closed, lrcTx := 0x00#8, acc := [], wq := [], cur := none, lrc := 0x00#8
      result := none, env := rest, host := releaseAll s.host }

/-- A step runs the decoded instruction: the next event is taken off the schedule, its record is decoded,
`exec` gives the block's next state, and the host agent alone is changed by its reaction (log entries 4
and 6). -/
def Obligations.StepRunsTheDecodedRecord : Prop :=
  ∀ (s : State) (fmt : Format) (bytes tail : List Byte) (rest : List Event) (i : Instr),
    s.env = .record fmt bytes :: rest → decodeRecord fmt bytes = .ok (i, tail) → i.wf = true →
    (∀ t, exec i { s with env := rest } = .next t →
      step s = .next { t with host := (hostReact { s with env := rest } t).host }) ∧
    (∀ r, exec i { s with env := rest } = .refused r → step s = .refused r)

/-- Past the end of the schedule the machine always goes on, one draw is counted, and the drawn event happens;
where it is not enabled nothing but the count changes (R18, R252; log entry 4). Of every law of draws, the
machine's own free one among them. -/
def Obligations.StepDrawsPastTheSchedule : Prop :=
  (∀ s : State, step s = stepWith Config.nextEvent s) ∧
  ∀ (draw : Nat → Event) (s : State), s.env = [] →
    (∀ u, runEvent (draw s.draws) { s with draws := s.draws + 1 } = .next u → stepWith draw s = .next u) ∧
    (∀ r, runEvent (draw s.draws) { s with draws := s.draws + 1 } = .refused r →
      stepWith draw s = .next { s with draws := s.draws + 1 }) ∧
    ∃ t, stepWith draw s = .next t ∧ t.draws = s.draws + 1 ∧ t.env = []

/-- R28 at reset, the flags that follow from the reset values (R29, derived in the spec), and the invariants
of the host agent (whose empty start is log entry 6). -/
def Obligations.InvariantsHoldAtReset : Prop :=
  Invariants State.reset ∧
  linkOpen State.reset = false ∧ txBusy State.reset = false ∧ wqEmpty State.reset = true ∧
  accEmpty State.reset = true ∧
  HostInvariants State.reset ∧ EtxKeptOut State.reset

/-- R28 (derived in the spec): every step, whatever the event, keeps the invariants. -/
def Obligations.InvariantsHoldAfterEveryStep : Prop :=
  ∀ s t : State, Invariants s → step s = .next t → Invariants t

/-- R51, R30: the histories only grow, and no step changes MAX_DATA or NREQ. That this holds of the reset pin
too is the reading of log entry 9; that the open parameters are fields of State is log entry 1. -/
def Obligations.HistoriesOnlyGrow : Prop :=
  ∀ s t : State, step s = .next t →
    s.txLog <+: t.txLog ∧ s.rxLog <+: t.rxLog ∧ s.frameLog <+: t.frameLog ∧ s.diagLog <+: t.diagLog ∧
    s.doneLog <+: t.doneLog ∧ t.params = s.params

/-! ## Records -/

/-- Decoding a record of a well-formed row gives the row back, whatever stands behind it (the operand
layout is log entry 2). -/
def Obligations.DecodeOfEncodeIsTheRow : Prop :=
  ∀ (i : Instr) (tail : List Byte), i.wf = true → decodeRecord i.format (encode i ++ tail) = .ok (i, tail)

/-- What the decoder yields is well formed (R84, R97: OTHER is tried last). -/
def Obligations.DecodedRecordsAreWellFormed : Prop :=
  ∀ (fmt : Format) (bytes tail : List Byte) (i : Instr),
    decodeRecord fmt bytes = .ok (i, tail) → i.wf = true ∧ i.format = fmt

/-- Sample records, written out from R96, R84, R90 and R80. That a table word of eight bits below 14 is read
as an OPX and one from 14 on as a wire byte, and that its width tells the format, is the model's choice (log
entry 8). -/
def Obligations.SampleRecordsDecode : Prop :=
  decodeTableWord 8 0x00 = some .lrcClr ∧
  decodeTableWord 8 0x04 = some .txEmit ∧
  decodeTableWord 8 0x07 = some .accStep ∧
  decodeTableWord 8 0x0A = some .linkTerr ∧
  decodeTableWord 8 0x0E = some (.other 0x0E#8) ∧
  decodeTableWord 40 0x0252514944 = some .hdrRqId ∧
  decodeTableWord 56 0x024D434443030A =
    some (.frameL0 { b0 := 0x4D#8, b1 := 0x43#8 } { b0 := 0x44#8, b1 := 0x43#8 } 0x0A#8) ∧
  decodeTableWord 64 0x024D4344434F0345 =
    some (.frameL1 { b0 := 0x4D#8, b1 := 0x43#8 } { b0 := 0x44#8, b1 := 0x43#8 } 0x4F#8 0x45#8) ∧
  decodeRecord .byte8 [0x02#8] = .ok (.stx, []) ∧
  decodeRecord .byte8 [0x03#8] = .ok (.etx, []) ∧
  decodeRecord .op5 [0x0E#8] = .error (.unusedOpx 0x0E#8)

/-! ## The host agent (45_host_contract.md, environment) -/

/-- R206, R208, R211, R220, R223: what `execute` does before its wait, on an open and on a closed link, whatever
bytes its data hold; that a suspended caller makes no such call (the refusal is log entry 20); how the first
waiter's attempt starts (the host's port being 0 is log entry 6); and that no attempt starts on a Closed link,
while one is in flight, with nobody waiting, or while the host's port is outstanding. -/
def Obligations.HostExecuteAndSubmit : Prop :=
  (∀ (c : Call) (s : State) (rest : List Event), s.env = .host (.execute c) :: rest → s.link = .opened →
    c.caller ∉ suspended s.host →
    (c.data.length > s.params.maxData → step s = .next { s with
      env := rest
      host := { s.host with calls := s.host.calls ++ [(c.caller, .failed .frameTooLarge)] } }) ∧
    (c.data.length ≤ s.params.maxData → c.maxAttempts = 0 → step s = .next { s with
      env := rest
      host := { s.host with calls := s.host.calls ++ [(c.caller, .failed (.commandTimeout 0))] } }) ∧
    (c.data.length ≤ s.params.maxData → 0 < c.maxAttempts → step s = .next { s with
      env := rest
      host := { s.host with waiters := s.host.waiters ++ [{ call := c, made := 0 }] } })) ∧
  (∀ (c : Call) (s : State) (rest : List Event), s.env = .host (.execute c) :: rest → s.link = .closed →
    HostInvariants s →
    step s = .next { s with
      env := rest
      host := { s.host with
        calls := s.host.calls ++ [(c.caller, .failed (
          if c.data.length > s.params.maxData then .frameTooLarge
          else if c.maxAttempts = 0 then .commandTimeout 0
          else .linkClosed))] } }) ∧
  (∀ (c : Call) (s : State) (rest : List Event), s.env = .host (.execute c) :: rest →
    c.caller ∈ suspended s.host → step s = .refused (.notEnabled .hostCallerSuspended)) ∧
  ∀ (s : State) (rest : List Event), s.env = .host .submit :: rest →
    (∀ (w : Waiter) (ws : List Waiter), s.link = .opened → s.host.pending = none → s.host.waiters = w :: ws →
      0 ∉ outstanding s → 0 < s.params.nreq → w.call.data.length ≤ s.params.maxData →
      step s = .next { s with
        env := rest
        wq := s.wq ++ [{ r := 0, cmd := w.call.cmd, sub := w.call.sub, data := w.call.data }]
        result := none
        host := { s.host with
          waiters := ws
          pending := some { call := w.call, attempt := w.made + 1, submitted := s.host.clock } } }) ∧
    (s.link = .closed ∨ s.host.pending.isSome = true ∨ s.host.waiters = [] ∨ 0 ∈ outstanding s →
      step s = .refused (.notEnabled .hostCannotSubmit))

/-- R222, R224, R264: `open` is LINK.OPEN, and its caller enters a scope exactly if it is answered Ok, whoever
else is still inside one of a ConnectionState torn down before; leaving a scope is LINK.CLOSE, on every exit
path and whatever is in flight, and so is closing again or from outside any scope (R224); it leaves nobody
waiting (that it closes a link opened by another since is log entry 19). A suspended caller neither opens nor
closes, but for the cancellation that takes it out of its scope (R223; log entry 20). -/
def Obligations.HostScopeClosesOnEveryExit : Prop :=
  (∀ (c : Nat) (ok : Bool) (s : State) (rest : List Event), s.env = .host (.acquire c ok) :: rest →
    (c ∉ suspended s.host → s.link = .closed → ok = true →
      step s = .next { s with
        env := rest
        link := .opened, acc := [], wq := [], cur := none, result := some (.status (.ok none))
        host := { s.host with scopes := c :: s.host.scopes, opens := s.host.opens ++ [(c, .ok none)] } }) ∧
    (c ∉ suspended s.host → HostInvariants s → s.link = .opened ∨ ok = false →
      step s = .next { s with
        env := rest
        result := some (.status .connectionError)
        host := { s.host with opens := s.host.opens ++ [(c, .connectionError)] } }) ∧
    (c ∈ suspended s.host → step s = .refused (.notEnabled .hostCallerSuspended))) ∧
  ∀ (c : Nat) (path : ExitPath) (s : State) (rest : List Event), s.env = .host (.leave c path) :: rest →
    (c ∉ suspended s.host ∨ (path = .cancellation ∧ c ∈ s.host.scopes) →
      ∃ t, exec .linkClose { s with env := rest, host := { s.host with scopes := s.host.scopes.erase c } } =
          .next t ∧
        t.link = .closed ∧
        step s = .next { t with host := releaseAll { s.host with scopes := s.host.scopes.erase c } }) ∧
    (c ∈ suspended s.host → path ≠ .cancellation ∨ c ∉ s.host.scopes →
      step s = .refused (.notEnabled .hostCallerSuspended))

/-- R209, R210: after a step that delivered one frame on an open link: a frame that matches the pending
request fulfils it; any other is stale. That this holds at every clock value, so that a frame which comes after
the expired moment but before TIMEOUT is taken still fulfils the request, is the model's choice (log entry
18). -/
def Obligations.HostDeliversMatchingFrame : Prop :=
  ∀ (s t : State) (f : Frame), t.frameLog = s.frameLog ++ [f] → t.link = .opened →
    (∀ p, t.host.pending = some p →
      hostReact s t = { t with
        host :=
          if Config.hostMatches p.call.cmd p.call.sub f = true then
            { t.host with pending := none, calls := t.host.calls ++ [(p.call.caller, .frame f)] }
          else { t.host with stale := t.host.stale ++ [f] } }) ∧
    (t.host.pending = none →
      hostReact s t = { t with host := { t.host with stale := t.host.stale ++ [f] } })

/-- R213, R215: the expiry of an attempt on an open link: the caller waits again until its attempts are
used up, and then gets CommandTimeout with their number (a retry joins the end of the wait list: log
entry 6). That the expiry may be taken at any clock value from its moment on, with no bound, is the model's
choice (log entry 18). -/
def Obligations.HostTimeoutRetriesThenFails : Prop :=
  ∀ (s : State) (p : Pending) (rest : List Event), s.env = .host .timeout :: rest → s.link = .opened →
    s.host.pending = some p →
    (s.host.clock < p.submitted + p.call.timeout → step s = .refused (.notEnabled .hostNotTimedOut)) ∧
    (p.submitted + p.call.timeout ≤ s.host.clock → p.attempt < p.call.maxAttempts →
      step s = .next { s with env := rest, host := { s.host with
        pending := none, waiters := s.host.waiters ++ [{ call := p.call, made := p.attempt }] } }) ∧
    (p.submitted + p.call.timeout ≤ s.host.clock → p.call.maxAttempts ≤ p.attempt →
      step s = .next { s with env := rest, host := { s.host with
        pending := none
        calls := s.host.calls ++ [(p.call.caller, .failed (.commandTimeout p.attempt))] } })

/-- R206, R207, R212, R215, R223, R224, R227: after any event, of the schedule or drawn, that leaves the link
Closed nobody is pending or waiting; and every step, whatever the event, keeps the invariants of the host
agent: no waiting on a Closed link, no caller suspended twice, waiting calls fit a frame, attempts within what
is allowed. And where `0x03` is kept out of what `execute` and WR.REQ are handed, no waiting call, no request and
no write in progress ever holds one (R224; the duty is a premise: log entry 20). -/
def Obligations.HostClosureLeavesNobodyWaiting : Prop :=
  (∀ (e : Event) (s t : State), runEvent e s = .next t → t.link = .closed →
    t.host.pending = none ∧ t.host.waiters = []) ∧
  (∀ s t : State, HostInvariants s → step s = .next t → HostInvariants t) ∧
  ∀ (e : Event) (s t : State), runEvent e s = .next t → dutiful e → EtxKeptOut s → EtxKeptOut t

/-- R213, R214, R220, R225: all calls eventually resolve. In a run that is fair to the block (R300) and to the
host, which has its port to itself, every suspended caller is answered, with a frame, LinkClosed or
CommandTimeout, whatever else happens. Fairness is a premise on the run, the host's with the model's own list
of events (log entry 13). -/
def Obligations.HostCallsResolveInFairRuns : Prop :=
  ∀ (draw : Nat → Event) (run : Nat → State), isRun draw run → weaklyFair draw run → hostFair draw run →
    hostOwnsPort draw run → Invariants (run 0) → HostInvariants (run 0) → 0 < (run 0).params.nreq →
    ∀ n c, c ∈ suspended (run n).host →
      ∃ m r, n ≤ m ∧ answeredAt run m c r ∧
        ((∃ f, r = .frame f) ∨ r = .failed .linkClosed ∨ ∃ k, r = .failed (.commandTimeout k))

/-- R214, R220: every call of `execute` is answered exactly once: whatever event happens, the callers answered
by it and those unanswered after it are those unanswered before it and the new one. -/
def Obligations.HostAnswersEveryCallOnce : Prop :=
  ∀ (e : Event) (s t : State), runEvent e s = .next t →
    ∃ new : List (Nat × CallResult), t.host.calls = s.host.calls ++ new ∧
      (new.map Prod.fst ++ suspended t.host).Perm (suspended s.host ++ called e)
end

