-- ==== Sys2Proof/Laws/Sequences.lean ====
section
/-! SUPPORT. What the search `first` finds (R17), and what a slice is. -/

namespace Sys2Proof.Laws

open Sys2Proof Sys2Proof.Machine

/-- A hit: the marker stands right behind a part that holds none from `lo` on. -/
theorem firstFrom_append_hit (b : Byte) (lo hi : Nat) (s t : List Byte) (i : Nat)
    (hlo : lo ≤ i + s.length) (hhi : i + s.length ≤ hi) (hs : b ∉ s.drop (lo - i)) :
    firstFrom b lo hi i (s ++ b :: t) = some (i + s.length) := by
  induction s generalizing i with
  | nil => simp_all [firstFrom]
  | cons x s ih =>
    have hx : ¬ (lo ≤ i ∧ i ≤ hi ∧ x = b) := by
      rintro ⟨h1, -, rfl⟩
      have : lo - i = 0 := by omega
      simp [this] at hs
    simp only [List.cons_append, firstFrom, if_neg hx]
    have hs' : b ∉ s.drop (lo - (i + 1)) := by
      intro h
      apply hs
      rcases Nat.lt_or_ge i lo with h1 | h1
      · have : lo - i = (lo - (i + 1)) + 1 := by omega
        rw [this, List.drop_succ_cons]
        exact h
      · have : lo - i = 0 := by omega
        have h2 : lo - (i + 1) = 0 := by omega
        rw [h2] at h
        rw [this]
        exact List.mem_cons_of_mem _ h
    rw [ih (i + 1) (by simp at hlo; omega) (by simp at hhi; omega) hs']
    simp; omega

/-- A miss: no marker within the bounds. -/
theorem firstFrom_eq_none (b : Byte) (lo hi : Nat) (s : List Byte) (i : Nat)
    (hs : b ∉ (s.take (hi + 1 - i)).drop (lo - i)) : firstFrom b lo hi i s = none := by
  induction s generalizing i with
  | nil => rfl
  | cons x s ih =>
    have hx : ¬ (lo ≤ i ∧ i ≤ hi ∧ x = b) := by
      rintro ⟨h1, h2, rfl⟩
      have e1 : lo - i = 0 := by omega
      have e2 : hi + 1 - i = (hi - i) + 1 := by omega
      simp [e1, e2] at hs
    simp only [firstFrom, if_neg hx]
    apply ih
    intro h
    apply hs
    rcases Nat.lt_or_ge hi i with h3 | h3
    · have : hi + 1 - (i + 1) = 0 := by omega
      simp [this] at h
    · have e2 : hi + 1 - i = (hi + 1 - (i + 1)) + 1 := by omega
      rw [e2, List.take_succ_cons]
      rcases Nat.lt_or_ge i lo with h1 | h1
      · have : lo - i = (lo - (i + 1)) + 1 := by omega
        rw [this, List.drop_succ_cons]
        exact h
      · have e3 : lo - i = 0 := by omega
        have e4 : lo - (i + 1) = 0 := by omega
        rw [e4] at h
        rw [e3]
        exact List.mem_cons_of_mem _ h

/-- Whatever the search finds splits the sequence there: the marker behind a part that holds none from
`lo` on. -/
theorem firstFrom_eq_some (b : Byte) (lo hi : Nat) (s : List Byte) (i e : Nat)
    (h : firstFrom b lo hi i s = some e) :
    ∃ p t, s = p ++ b :: t ∧ e = i + p.length ∧ lo ≤ e ∧ e ≤ hi ∧ b ∉ p.drop (lo - i) := by
  induction s generalizing i with
  | nil => simp [firstFrom] at h
  | cons x s ih =>
    simp only [firstFrom] at h
    split at h
    · rename_i hx
      obtain ⟨h1, h2, rfl⟩ := hx
      simp at h
      exact ⟨[], s, by simp, by simp [← h], by omega, by omega, by simp⟩
    · rename_i hx
      obtain ⟨p, t, rfl, he, h1, h2, hp⟩ := ih (i + 1) h
      refine ⟨x :: p, t, by simp, by simp; omega, h1, h2, ?_⟩
      intro hm
      rcases Nat.lt_or_ge i lo with h3 | h3
      · have : lo - i = (lo - (i + 1)) + 1 := by omega
        rw [this, List.drop_succ_cons] at hm
        exact hp hm
      · have e3 : lo - i = 0 := by omega
        have e4 : lo - (i + 1) = 0 := by omega
        rw [e3] at hm
        rw [e4] at hp
        simp at hm hp
        rcases hm with rfl | hm
        · exact hx ⟨h3, by omega, rfl⟩
        · exact hp hm

/-- `first` at a marker behind a part that holds none from `lo` on (R17). -/
theorem first_append_hit (b : Byte) (lo hi : Nat) (s t : List Byte) (hlo : lo ≤ s.length)
    (hhi : s.length ≤ hi) (hs : b ∉ s.drop lo) : first (s ++ b :: t) lo hi b = some s.length := by
  have := firstFrom_append_hit b lo hi s t 0 (by omega) (by omega) (by simpa using hs)
  simpa [first] using this

/-- `first` where no marker stands within the bounds (R17). -/
theorem first_eq_none (b : Byte) (lo hi : Nat) (s : List Byte) (hs : b ∉ (s.take (hi + 1)).drop lo) :
    first s lo hi b = none := firstFrom_eq_none b lo hi s 0 (by simpa using hs)

/-- What `first` finds (R17). -/
theorem first_eq_some (b : Byte) (lo hi : Nat) (s : List Byte) (e : Nat) (h : first s lo hi b = some e) :
    ∃ p t, s = p ++ b :: t ∧ e = p.length ∧ lo ≤ e ∧ e ≤ hi ∧ b ∉ p.drop lo := by
  obtain ⟨p, t, h1, h2, h3, h4, h5⟩ := firstFrom_eq_some b lo hi s 0 e h
  exact ⟨p, t, h1, by omega, h3, h4, by simpa using h5⟩

/-- Where `first` finds nothing, no marker stands within the bounds (R17). -/
theorem not_mem_of_first_eq_none (b : Byte) (lo hi : Nat) (s : List Byte) (h : first s lo hi b = none) :
    b ∉ (s.take (hi + 1)).drop lo := by
  intro hm
  obtain ⟨j, hj, hjb⟩ := List.getElem_of_mem hm
  have key : ∀ (s : List Byte) (i : Nat), firstFrom b lo hi i s = none →
      ∀ j (hj : j < s.length), lo ≤ i + j → i + j ≤ hi → s[j] ≠ b := by
    intro s
    induction s with
    | nil => intro i _ j hj; simp at hj
    | cons x s ih =>
      intro i hn j hj h1 h2
      simp only [firstFrom] at hn
      split at hn
      · cases hn
      · rename_i hx
        cases j with
        | zero =>
          intro hxb
          exact hx ⟨by omega, by omega, by simpa using hxb⟩
        | succ j =>
          have := ih (i + 1) hn j (by simpa using hj) (by omega) (by omega)
          simpa using this
  have hlen : lo + j < s.length := by simp at hj; omega
  have := key s 0 h (lo + j) hlen (by omega) (by simp at hj; omega)
  apply this
  simpa using hjb

/-- A slice between two parts (R17). -/
theorem slice_append (p m t : List Byte) (hm : m ≠ []) :
    slice (p ++ m ++ t) p.length (p.length + m.length - 1) = m := by
  have h1 : 0 < m.length := List.length_pos_iff.mpr hm
  have h : p.length + m.length - 1 + 1 = (p ++ m).length := by simp; omega
  simp only [slice, h, List.take_left, List.drop_left]

/-- A slice has the elements from `i` to `j` (R17). -/
theorem slice_eq (s : List Byte) (i j : Nat) : slice s i j = (s.drop i).take (j + 1 - i) := by
  rw [slice, List.drop_take]

end Sys2Proof.Laws
end

