-- ==== Sys2Proof/Laws/Codec.lean ====
section
/-! SUPPORT. What the pure functions of the codec can answer: the fold `LRC` (R110) and everything that
`Decode` can say of a buffer, by the buffer's shape (R135). -/

namespace Sys2Proof.Laws

open Sys2Proof Sys2Proof.Machine

/-! ## The LRC fold -/

/-- A fold from any register value is that value XOR the checksum (R110, R113). -/
theorem foldl_lrcUpdate (s : List Byte) (a : Byte) : s.foldl lrcUpdate a = a ^^^ lrcOf s := by
  induction s generalizing a with
  | nil => simp [lrcOf, lrcClear]
  | cons b s ih =>
    rw [lrcOf, List.foldl_cons, List.foldl_cons, ih (lrcUpdate a b), ih (lrcUpdate lrcClear b)]
    simp only [lrcUpdate, lrcClear, xor8, BitVec.zero_xor, BitVec.xor_assoc]

/-- The checksum of a sequence by its first byte (R110). -/
theorem lrcOf_cons (b : Byte) (s : List Byte) : lrcOf (b :: s) = b ^^^ lrcOf s := by
  rw [lrcOf, List.foldl_cons, foldl_lrcUpdate]
  simp [lrcUpdate, lrcClear]

/-! ## Decode by the shape of the buffer -/

/-- A buffer that begins with STX goes to the candidate steps (R135, R136). -/
theorem frameDecode_of_stx (maxData : Nat) (r : List Byte) :
    frameDecode maxData (Config.stxByte :: r) = decodeCandidate maxData (Config.stxByte :: r) := by
  have h := first_append_hit Config.stxByte 0 (r.length) [] r (by simp) (by simp) (by simp)
  simp only [List.nil_append, List.length_nil] at h
  simp [frameDecode, h]

/-- A candidate with its ETX at the end of at most `MAX_DATA` DATA bytes: the search finds that ETX
(R82, R135 step 2). -/
theorem first_etx (maxData : Nat) (h d t : List Byte) (hh : h.length = 4) (hd : d.length ≤ maxData)
    (he : Config.etxByte ∉ d) :
    first (Config.stxByte :: (h ++ d ++ Config.etxByte :: t)) Config.hdrLen (Config.hdrLen + maxData)
      Config.etxByte = some (5 + d.length) := by
  have hp : (Config.stxByte :: (h ++ d)).length = 5 + d.length := by simp [hh]; omega
  have := first_append_hit Config.etxByte Config.hdrLen (Config.hdrLen + maxData)
    (Config.stxByte :: (h ++ d)) t (by rw [hp]; simp [Config.hdrLen]) (by rw [hp]; simp [Config.hdrLen]; omega)
    (by
      have : (Config.stxByte :: (h ++ d)).drop Config.hdrLen = d := by
        rw [Config.hdrLen, List.drop_succ_cons, ← hh, List.drop_left]
      rw [this]; exact he)
  rw [hp] at this
  simpa using this

/-- What step 4 answers for a candidate with these fields (R140). -/
def checkedAs (c0 c1 u0 u1 l : Byte) (d : List Byte) : Decoded :=
  if lrcOf ([c0, c1, u0, u1] ++ d ++ [Config.etxByte]) = l then
    .frame ⟨c0, c1⟩ ⟨u0, u1⟩ d (d.length + 7)
  else .checksumError (d.length + 7)

/-- The search and the check of a complete candidate (R140). -/
theorem decode_candidate_checks (maxData : Nat) (c0 c1 u0 u1 l : Byte) (d r : List Byte)
    (hd : d.length ≤ maxData) (he : Config.etxByte ∉ d) :
    frameDecode maxData (Config.stxByte :: ([c0, c1, u0, u1] ++ d ++ Config.etxByte :: l :: r)) =
      checkedAs c0 c1 u0 u1 l d := by
  have hlen : 5 + d.length + 1 ≠
      (Config.stxByte :: ([c0, c1, u0, u1] ++ d ++ Config.etxByte :: l :: r)).length := by
    simp; omega
  rw [frameDecode_of_stx, decodeCandidate, first_etx maxData [c0, c1, u0, u1] d (l :: r) rfl hd he]
  simp only [if_neg hlen, checkCandidate]
  have h1 : slice (Config.stxByte :: ([c0, c1, u0, u1] ++ d ++ Config.etxByte :: l :: r)) 1 (5 + d.length) =
      [c0, c1, u0, u1] ++ d ++ [Config.etxByte] := by
    have := slice_append [Config.stxByte] ([c0, c1, u0, u1] ++ d ++ [Config.etxByte]) (l :: r) (by simp)
    have e : [Config.stxByte].length + ([c0, c1, u0, u1] ++ d ++ [Config.etxByte]).length - 1 = 5 + d.length := by
      simp; omega
    rw [e] at this
    simpa using this
  have h2 : slice (Config.stxByte :: ([c0, c1, u0, u1] ++ d ++ Config.etxByte :: l :: r)) Config.hdrLen
      (5 + d.length - 1) = d := by
    have e : 5 + d.length - 1 + 1 - Config.hdrLen = d.length := by simp only [Config.hdrLen]; omega
    rw [slice_eq, e]
    simp
  have h3 : (Config.stxByte :: ([c0, c1, u0, u1] ++ d ++ Config.etxByte :: l :: r)).getD (5 + d.length + 1)
      0x00#8 = l := by
    have e : 5 + d.length + 1 = d.length + 6 := by omega
    rw [e]
    simp [List.getD]
  rw [h1, h2, h3]
  have e : 5 + d.length + 2 = d.length + 7 := by omega
  rw [e]
  simp [checkedAs]

/-- A sequence up to its first `b`. -/
theorem split_at_first (b : Byte) (s : List Byte) :
    ∃ g r, s = g ++ r ∧ b ∉ g ∧ (r = [] ∨ r.head? = some b) := by
  refine ⟨s.takeWhile (fun x => x != b), s.dropWhile (fun x => x != b), by simp, ?_, ?_⟩
  · intro h
    have := List.mem_takeWhile_imp h
    simp at this
  · cases hd : s.dropWhile (fun x => x != b) with
    | nil => exact .inl rfl
    | cons x t =>
      right
      have := List.head?_dropWhile_not (fun x => x != b) s
      rw [hd] at this
      simpa using this

/-- The shapes a buffer can have, with the outcome of each (R135): every buffer has exactly one. -/
inductive DecodeShape (maxData : Nat) : List Byte → Decoded → Prop where
  /-- R137 (a). -/
  | empty : DecodeShape maxData [] .needMoreBytes
  /-- R138. -/
  | garbage (g r : List Byte) (hg : g ≠ []) (hs : Config.stxByte ∉ g)
      (hr : r = [] ∨ r.head? = some Config.stxByte) : DecodeShape maxData (g ++ r) (.invalid g.length)
  /-- R137 (b). -/
  | short (r : List Byte) (he : Config.etxByte ∉ r.drop 4) (hlen : r.length ≤ maxData + 4) :
      DecodeShape maxData (Config.stxByte :: r) .needMoreBytes
  /-- R139. -/
  | overlong (g r : List Byte) (hg : Config.stxByte ∉ g) (hr : r = [] ∨ r.head? = some Config.stxByte)
      (hlen : maxData + 6 ≤ (Config.stxByte :: (g ++ r)).length)
      (he : Config.etxByte ∉ ((Config.stxByte :: (g ++ r)).drop 5).take (maxData + 1)) :
      DecodeShape maxData (Config.stxByte :: (g ++ r)) (.invalid (g.length + 1))
  /-- R137 (c). -/
  | etxLast (h d : List Byte) (hh : h.length = 4) (hd : d.length ≤ maxData) (he : Config.etxByte ∉ d) :
      DecodeShape maxData (Config.stxByte :: (h ++ d ++ [Config.etxByte])) .needMoreBytes
  /-- R140, checksums equal. -/
  | frame (c0 c1 u0 u1 l : Byte) (d r : List Byte) (hd : d.length ≤ maxData) (he : Config.etxByte ∉ d)
      (hl : lrcOf ([c0, c1, u0, u1] ++ d ++ [Config.etxByte]) = l) :
      DecodeShape maxData (Config.stxByte :: ([c0, c1, u0, u1] ++ d ++ Config.etxByte :: l :: r))
        (.frame ⟨c0, c1⟩ ⟨u0, u1⟩ d (d.length + 7))
  /-- R140, checksums not equal. -/
  | checksumError (c0 c1 u0 u1 l : Byte) (d r : List Byte) (hd : d.length ≤ maxData)
      (he : Config.etxByte ∉ d) (hl : lrcOf ([c0, c1, u0, u1] ++ d ++ [Config.etxByte]) ≠ l) :
      DecodeShape maxData (Config.stxByte :: ([c0, c1, u0, u1] ++ d ++ Config.etxByte :: l :: r))
        (.checksumError (d.length + 7))

/-- The outcome of a shape is what `Decode` answers. -/
theorem DecodeShape.eq {maxData : Nat} {buf : List Byte} {o : Decoded} (h : DecodeShape maxData buf o) :
    frameDecode maxData buf = o := by
  cases h with
  | empty => rfl
  | garbage g r hg hs hr =>
    have hpos : 0 < g.length := List.length_pos_iff.mpr hg
    have hne : (g ++ r).length ≠ 0 := by rw [List.length_append]; omega
    rcases hr with rfl | hr
    · have h := first_eq_none Config.stxByte 0 (g.length - 1) g
        (by intro hm; exact hs (List.mem_of_mem_take (by simpa using hm)))
      simp only [List.append_nil] at hne ⊢
      rw [frameDecode, if_neg hne, h]
    · obtain ⟨r', rfl⟩ : ∃ r', r = Config.stxByte :: r' := by
        cases r with
        | nil => simp at hr
        | cons x r' => simp at hr; exact ⟨r', by rw [hr]⟩
      have h := first_append_hit Config.stxByte 0 ((g ++ Config.stxByte :: r').length - 1) g r' (by simp)
        (by simp) (by simpa using hs)
      rw [frameDecode, if_neg hne, h]
      simp [hpos]
  | short r he hlen =>
    have hn : first (Config.stxByte :: r) Config.hdrLen (Config.hdrLen + maxData) Config.etxByte = none := by
      apply first_eq_none
      intro hm
      rw [List.drop_take] at hm
      exact he (by simpa using List.mem_of_mem_take hm)
    rw [frameDecode_of_stx, decodeCandidate, hn]
    simp only [noEndMarker]
    rw [if_neg (by simp; omega)]
  | overlong g r hg hr hlen he =>
    have hn : first (Config.stxByte :: (g ++ r)) Config.hdrLen (Config.hdrLen + maxData) Config.etxByte = none := by
      apply first_eq_none
      rw [List.drop_take]
      have : Config.hdrLen + maxData + 1 - Config.hdrLen = maxData + 1 := by simp only [Config.hdrLen]; omega
      rw [this]
      exact he
    have hlen' : 6 + maxData ≤ (Config.stxByte :: (g ++ r)).length := by omega
    rw [frameDecode_of_stx, decodeCandidate, hn]
    simp only [noEndMarker, if_pos hlen']
    rcases hr with rfl | hr
    · rw [first_eq_none]
      · simp
      · intro hm
        rw [List.drop_take] at hm
        have := List.mem_of_mem_take hm
        simp at this
        exact hg this
    · obtain ⟨r', rfl⟩ : ∃ r', r = Config.stxByte :: r' := by
        cases r with
        | nil => simp at hr
        | cons x r' => simp at hr; exact ⟨r', by rw [hr]⟩
      have h := first_append_hit Config.stxByte 1
        ((Config.stxByte :: (g ++ Config.stxByte :: r')).length - 1) (Config.stxByte :: g) r' (by simp)
        (by simp) (by simpa using hg)
      simp only [List.cons_append] at h
      rw [h]
      simp
  | etxLast h d hh hd he =>
    rw [frameDecode_of_stx, decodeCandidate, first_etx maxData h d [] hh hd he]
    simp [hh]; omega
  | frame c0 c1 u0 u1 l d r hd he hl => rw [decode_candidate_checks maxData c0 c1 u0 u1 l d r hd he, checkedAs, if_pos hl]
  | checksumError c0 c1 u0 u1 l d r hd he hl =>
    rw [decode_candidate_checks maxData c0 c1 u0 u1 l d r hd he, checkedAs, if_neg hl]

/-- Every buffer has a shape, and its outcome is what `Decode` answers (R141). -/
theorem frameDecode_shape (maxData : Nat) (buf : List Byte) :
    DecodeShape maxData buf (frameDecode maxData buf) := by
  suffices ∃ o, DecodeShape maxData buf o by
    obtain ⟨o, h⟩ := this
    rw [h.eq]; exact h
  obtain ⟨g, r, rfl, hg, hr⟩ := split_at_first Config.stxByte buf
  by_cases hge : g = []
  swap
  · exact ⟨_, .garbage g r hge hg hr⟩
  subst hge
  rcases hr with rfl | hr
  · exact ⟨_, .empty⟩
  obtain ⟨r, rfl⟩ : ∃ r', r = Config.stxByte :: r' := by
    cases r with
    | nil => simp at hr
    | cons x r' => simp at hr; exact ⟨r', by rw [hr]⟩
  simp only [List.nil_append]
  by_cases he : Config.etxByte ∈ (r.drop 4).take (maxData + 1)
  · obtain ⟨d, t, hdt, hde, ht⟩ := split_at_first Config.etxByte (r.drop 4)
    have hdl : d.length ≤ maxData := by
      by_contra hc
      rw [hdt, List.take_append_of_le_length (by omega)] at he
      exact hde (List.mem_of_mem_take he)
    obtain ⟨t, rfl⟩ : ∃ t', t = Config.etxByte :: t' := by
      rcases ht with rfl | ht
      · simp at hdt
        rw [hdt] at he
        exact absurd (List.mem_of_mem_take he) hde
      · cases t with
        | nil => simp at ht
        | cons x t' => simp at ht; exact ⟨t', by rw [ht]⟩
    have hr4 : 4 < r.length := by
      have : 0 < (r.drop 4).length := by rw [hdt]; simp
      simp at this; omega
    match r, hr4, hdt with
    | c0 :: c1 :: u0 :: u1 :: r5, _, hdt =>
      simp only [List.drop_succ_cons, List.drop_zero] at hdt
      subst hdt
      cases t with
      | nil => exact ⟨_, by simpa using DecodeShape.etxLast [c0, c1, u0, u1] d rfl hdl hde⟩
      | cons l t =>
        by_cases hl : lrcOf ([c0, c1, u0, u1] ++ d ++ [Config.etxByte]) = l
        · exact ⟨_, by simpa using DecodeShape.frame c0 c1 u0 u1 l d t hdl hde hl⟩
        · exact ⟨_, by simpa using DecodeShape.checksumError c0 c1 u0 u1 l d t hdl hde hl⟩
  · by_cases hlen : maxData + 5 ≤ r.length
    · obtain ⟨g, t, rfl, hg, ht⟩ := split_at_first Config.stxByte r
      exact ⟨_, .overlong g t hg ht (by simp at hlen ⊢; omega) (by simpa using he)⟩
    · refine ⟨_, .short r ?_ (by omega)⟩
      rwa [List.take_of_length_le (by simp; omega)] at he

end Sys2Proof.Laws
end

