-- ==== Sys2Proof/Laws/State.lean ====
section
/-! SUPPORT. One lemma per field per named operation, so that no proof unfolds a record update. -/

namespace Sys2Proof.Laws

open Sys2Proof Sys2Proof.Machine

/-! ### setResult -/

@[simp] theorem setResult_link (r : Option Result) (s : State) : (setResult r s).link = s.link := rfl
@[simp] theorem setResult_lrcTx (r : Option Result) (s : State) : (setResult r s).lrcTx = s.lrcTx := rfl
@[simp] theorem setResult_acc (r : Option Result) (s : State) : (setResult r s).acc = s.acc := rfl
@[simp] theorem setResult_wq (r : Option Result) (s : State) : (setResult r s).wq = s.wq := rfl
@[simp] theorem setResult_cur (r : Option Result) (s : State) : (setResult r s).cur = s.cur := rfl
@[simp] theorem setResult_lrc (r : Option Result) (s : State) : (setResult r s).lrc = s.lrc := rfl
@[simp] theorem setResult_txLog (r : Option Result) (s : State) : (setResult r s).txLog = s.txLog := rfl
@[simp] theorem setResult_rxLog (r : Option Result) (s : State) : (setResult r s).rxLog = s.rxLog := rfl
@[simp] theorem setResult_frameLog (r : Option Result) (s : State) : (setResult r s).frameLog = s.frameLog := rfl
@[simp] theorem setResult_diagLog (r : Option Result) (s : State) : (setResult r s).diagLog = s.diagLog := rfl
@[simp] theorem setResult_doneLog (r : Option Result) (s : State) : (setResult r s).doneLog = s.doneLog := rfl
@[simp] theorem setResult_result (r : Option Result) (s : State) : (setResult r s).result = r := rfl
@[simp] theorem setResult_params (r : Option Result) (s : State) : (setResult r s).params = s.params := rfl
@[simp] theorem setResult_env (r : Option Result) (s : State) : (setResult r s).env = s.env := rfl
@[simp] theorem setResult_draws (r : Option Result) (s : State) : (setResult r s).draws = s.draws := rfl
@[simp] theorem setResult_host (r : Option Result) (s : State) : (setResult r s).host = s.host := rfl

/-! ### emitTx -/

@[simp] theorem emitTx_link (b : Byte) (s : State) : (emitTx b s).link = s.link := rfl
@[simp] theorem emitTx_lrcTx (b : Byte) (s : State) : (emitTx b s).lrcTx = s.lrcTx := rfl
@[simp] theorem emitTx_acc (b : Byte) (s : State) : (emitTx b s).acc = s.acc := rfl
@[simp] theorem emitTx_wq (b : Byte) (s : State) : (emitTx b s).wq = s.wq := rfl
@[simp] theorem emitTx_cur (b : Byte) (s : State) : (emitTx b s).cur = s.cur := rfl
@[simp] theorem emitTx_lrc (b : Byte) (s : State) : (emitTx b s).lrc = s.lrc := rfl
@[simp] theorem emitTx_txLog (b : Byte) (s : State) : (emitTx b s).txLog = s.txLog ++ [b] := rfl
@[simp] theorem emitTx_rxLog (b : Byte) (s : State) : (emitTx b s).rxLog = s.rxLog := rfl
@[simp] theorem emitTx_frameLog (b : Byte) (s : State) : (emitTx b s).frameLog = s.frameLog := rfl
@[simp] theorem emitTx_diagLog (b : Byte) (s : State) : (emitTx b s).diagLog = s.diagLog := rfl
@[simp] theorem emitTx_doneLog (b : Byte) (s : State) : (emitTx b s).doneLog = s.doneLog := rfl
@[simp] theorem emitTx_result (b : Byte) (s : State) : (emitTx b s).result = s.result := rfl
@[simp] theorem emitTx_params (b : Byte) (s : State) : (emitTx b s).params = s.params := rfl
@[simp] theorem emitTx_env (b : Byte) (s : State) : (emitTx b s).env = s.env := rfl
@[simp] theorem emitTx_draws (b : Byte) (s : State) : (emitTx b s).draws = s.draws := rfl
@[simp] theorem emitTx_host (b : Byte) (s : State) : (emitTx b s).host = s.host := rfl

/-! ### emitFrame -/

@[simp] theorem emitFrame_link (f : Frame) (s : State) : (emitFrame f s).link = s.link := rfl
@[simp] theorem emitFrame_lrcTx (f : Frame) (s : State) : (emitFrame f s).lrcTx = s.lrcTx := rfl
@[simp] theorem emitFrame_acc (f : Frame) (s : State) : (emitFrame f s).acc = s.acc := rfl
@[simp] theorem emitFrame_wq (f : Frame) (s : State) : (emitFrame f s).wq = s.wq := rfl
@[simp] theorem emitFrame_cur (f : Frame) (s : State) : (emitFrame f s).cur = s.cur := rfl
@[simp] theorem emitFrame_lrc (f : Frame) (s : State) : (emitFrame f s).lrc = s.lrc := rfl
@[simp] theorem emitFrame_txLog (f : Frame) (s : State) : (emitFrame f s).txLog = s.txLog := rfl
@[simp] theorem emitFrame_rxLog (f : Frame) (s : State) : (emitFrame f s).rxLog = s.rxLog := rfl
@[simp] theorem emitFrame_frameLog (f : Frame) (s : State) : (emitFrame f s).frameLog = s.frameLog ++ [f] := rfl
@[simp] theorem emitFrame_diagLog (f : Frame) (s : State) : (emitFrame f s).diagLog = s.diagLog := rfl
@[simp] theorem emitFrame_doneLog (f : Frame) (s : State) : (emitFrame f s).doneLog = s.doneLog := rfl
@[simp] theorem emitFrame_result (f : Frame) (s : State) : (emitFrame f s).result = s.result := rfl
@[simp] theorem emitFrame_params (f : Frame) (s : State) : (emitFrame f s).params = s.params := rfl
@[simp] theorem emitFrame_env (f : Frame) (s : State) : (emitFrame f s).env = s.env := rfl
@[simp] theorem emitFrame_draws (f : Frame) (s : State) : (emitFrame f s).draws = s.draws := rfl
@[simp] theorem emitFrame_host (f : Frame) (s : State) : (emitFrame f s).host = s.host := rfl

/-! ### emitDiag -/

@[simp] theorem emitDiag_link (d : Diag) (s : State) : (emitDiag d s).link = s.link := rfl
@[simp] theorem emitDiag_lrcTx (d : Diag) (s : State) : (emitDiag d s).lrcTx = s.lrcTx := rfl
@[simp] theorem emitDiag_acc (d : Diag) (s : State) : (emitDiag d s).acc = s.acc := rfl
@[simp] theorem emitDiag_wq (d : Diag) (s : State) : (emitDiag d s).wq = s.wq := rfl
@[simp] theorem emitDiag_cur (d : Diag) (s : State) : (emitDiag d s).cur = s.cur := rfl
@[simp] theorem emitDiag_lrc (d : Diag) (s : State) : (emitDiag d s).lrc = s.lrc := rfl
@[simp] theorem emitDiag_txLog (d : Diag) (s : State) : (emitDiag d s).txLog = s.txLog := rfl
@[simp] theorem emitDiag_rxLog (d : Diag) (s : State) : (emitDiag d s).rxLog = s.rxLog := rfl
@[simp] theorem emitDiag_frameLog (d : Diag) (s : State) : (emitDiag d s).frameLog = s.frameLog := rfl
@[simp] theorem emitDiag_diagLog (d : Diag) (s : State) : (emitDiag d s).diagLog = s.diagLog ++ [d] := rfl
@[simp] theorem emitDiag_doneLog (d : Diag) (s : State) : (emitDiag d s).doneLog = s.doneLog := rfl
@[simp] theorem emitDiag_result (d : Diag) (s : State) : (emitDiag d s).result = s.result := rfl
@[simp] theorem emitDiag_params (d : Diag) (s : State) : (emitDiag d s).params = s.params := rfl
@[simp] theorem emitDiag_env (d : Diag) (s : State) : (emitDiag d s).env = s.env := rfl
@[simp] theorem emitDiag_draws (d : Diag) (s : State) : (emitDiag d s).draws = s.draws := rfl
@[simp] theorem emitDiag_host (d : Diag) (s : State) : (emitDiag d s).host = s.host := rfl

/-! ### pushByte -/

@[simp] theorem pushByte_link (b : Byte) (s : State) : (pushByte b s).link = s.link := rfl
@[simp] theorem pushByte_lrcTx (b : Byte) (s : State) : (pushByte b s).lrcTx = s.lrcTx := rfl
@[simp] theorem pushByte_acc (b : Byte) (s : State) : (pushByte b s).acc = s.acc ++ [b] := rfl
@[simp] theorem pushByte_wq (b : Byte) (s : State) : (pushByte b s).wq = s.wq := rfl
@[simp] theorem pushByte_cur (b : Byte) (s : State) : (pushByte b s).cur = s.cur := rfl
@[simp] theorem pushByte_lrc (b : Byte) (s : State) : (pushByte b s).lrc = s.lrc := rfl
@[simp] theorem pushByte_txLog (b : Byte) (s : State) : (pushByte b s).txLog = s.txLog := rfl
@[simp] theorem pushByte_rxLog (b : Byte) (s : State) : (pushByte b s).rxLog = s.rxLog ++ [b] := rfl
@[simp] theorem pushByte_frameLog (b : Byte) (s : State) : (pushByte b s).frameLog = s.frameLog := rfl
@[simp] theorem pushByte_diagLog (b : Byte) (s : State) : (pushByte b s).diagLog = s.diagLog := rfl
@[simp] theorem pushByte_doneLog (b : Byte) (s : State) : (pushByte b s).doneLog = s.doneLog := rfl
@[simp] theorem pushByte_result (b : Byte) (s : State) : (pushByte b s).result = s.result := rfl
@[simp] theorem pushByte_params (b : Byte) (s : State) : (pushByte b s).params = s.params := rfl
@[simp] theorem pushByte_env (b : Byte) (s : State) : (pushByte b s).env = s.env := rfl
@[simp] theorem pushByte_draws (b : Byte) (s : State) : (pushByte b s).draws = s.draws := rfl
@[simp] theorem pushByte_host (b : Byte) (s : State) : (pushByte b s).host = s.host := rfl

/-! ### consume -/

@[simp] theorem consume_link (k : Nat) (s : State) : (consume k s).link = s.link := rfl
@[simp] theorem consume_lrcTx (k : Nat) (s : State) : (consume k s).lrcTx = s.lrcTx := rfl
@[simp] theorem consume_acc (k : Nat) (s : State) : (consume k s).acc = s.acc.drop k := rfl
@[simp] theorem consume_wq (k : Nat) (s : State) : (consume k s).wq = s.wq := rfl
@[simp] theorem consume_cur (k : Nat) (s : State) : (consume k s).cur = s.cur := rfl
@[simp] theorem consume_lrc (k : Nat) (s : State) : (consume k s).lrc = s.lrc := rfl
@[simp] theorem consume_txLog (k : Nat) (s : State) : (consume k s).txLog = s.txLog := rfl
@[simp] theorem consume_rxLog (k : Nat) (s : State) : (consume k s).rxLog = s.rxLog := rfl
@[simp] theorem consume_frameLog (k : Nat) (s : State) : (consume k s).frameLog = s.frameLog := rfl
@[simp] theorem consume_diagLog (k : Nat) (s : State) : (consume k s).diagLog = s.diagLog := rfl
@[simp] theorem consume_doneLog (k : Nat) (s : State) : (consume k s).doneLog = s.doneLog := rfl
@[simp] theorem consume_result (k : Nat) (s : State) : (consume k s).result = s.result := rfl
@[simp] theorem consume_params (k : Nat) (s : State) : (consume k s).params = s.params := rfl
@[simp] theorem consume_env (k : Nat) (s : State) : (consume k s).env = s.env := rfl
@[simp] theorem consume_draws (k : Nat) (s : State) : (consume k s).draws = s.draws := rfl
@[simp] theorem consume_host (k : Nat) (s : State) : (consume k s).host = s.host := rfl

/-! ### complete -/

@[simp] theorem complete_link (r : Nat) (st : Status) (s : State) : (complete r st s).link = s.link := rfl
@[simp] theorem complete_lrcTx (r : Nat) (st : Status) (s : State) : (complete r st s).lrcTx = s.lrcTx := rfl
@[simp] theorem complete_acc (r : Nat) (st : Status) (s : State) : (complete r st s).acc = s.acc := rfl
@[simp] theorem complete_wq (r : Nat) (st : Status) (s : State) : (complete r st s).wq = s.wq := rfl
@[simp] theorem complete_cur (r : Nat) (st : Status) (s : State) : (complete r st s).cur = s.cur := rfl
@[simp] theorem complete_lrc (r : Nat) (st : Status) (s : State) : (complete r st s).lrc = s.lrc := rfl
@[simp] theorem complete_txLog (r : Nat) (st : Status) (s : State) : (complete r st s).txLog = s.txLog := rfl
@[simp] theorem complete_rxLog (r : Nat) (st : Status) (s : State) : (complete r st s).rxLog = s.rxLog := rfl
@[simp] theorem complete_frameLog (r : Nat) (st : Status) (s : State) : (complete r st s).frameLog = s.frameLog := rfl
@[simp] theorem complete_diagLog (r : Nat) (st : Status) (s : State) : (complete r st s).diagLog = s.diagLog := rfl
@[simp] theorem complete_doneLog (r : Nat) (st : Status) (s : State) : (complete r st s).doneLog = s.doneLog ++ [(r, st)] := rfl
@[simp] theorem complete_result (r : Nat) (st : Status) (s : State) : (complete r st s).result = s.result := rfl
@[simp] theorem complete_params (r : Nat) (st : Status) (s : State) : (complete r st s).params = s.params := rfl
@[simp] theorem complete_env (r : Nat) (st : Status) (s : State) : (complete r st s).env = s.env := rfl
@[simp] theorem complete_draws (r : Nat) (st : Status) (s : State) : (complete r st s).draws = s.draws := rfl
@[simp] theorem complete_host (r : Nat) (st : Status) (s : State) : (complete r st s).host = s.host := rfl

/-! ### clearLrcTx -/

@[simp] theorem clearLrcTx_link (s : State) : (clearLrcTx s).link = s.link := rfl
@[simp] theorem clearLrcTx_lrcTx (s : State) : (clearLrcTx s).lrcTx = 0x00#8 := rfl
@[simp] theorem clearLrcTx_acc (s : State) : (clearLrcTx s).acc = s.acc := rfl
@[simp] theorem clearLrcTx_wq (s : State) : (clearLrcTx s).wq = s.wq := rfl
@[simp] theorem clearLrcTx_cur (s : State) : (clearLrcTx s).cur = s.cur := rfl
@[simp] theorem clearLrcTx_lrc (s : State) : (clearLrcTx s).lrc = s.lrc := rfl
@[simp] theorem clearLrcTx_txLog (s : State) : (clearLrcTx s).txLog = s.txLog := rfl
@[simp] theorem clearLrcTx_rxLog (s : State) : (clearLrcTx s).rxLog = s.rxLog := rfl
@[simp] theorem clearLrcTx_frameLog (s : State) : (clearLrcTx s).frameLog = s.frameLog := rfl
@[simp] theorem clearLrcTx_diagLog (s : State) : (clearLrcTx s).diagLog = s.diagLog := rfl
@[simp] theorem clearLrcTx_doneLog (s : State) : (clearLrcTx s).doneLog = s.doneLog := rfl
@[simp] theorem clearLrcTx_result (s : State) : (clearLrcTx s).result = s.result := rfl
@[simp] theorem clearLrcTx_params (s : State) : (clearLrcTx s).params = s.params := rfl
@[simp] theorem clearLrcTx_env (s : State) : (clearLrcTx s).env = s.env := rfl
@[simp] theorem clearLrcTx_draws (s : State) : (clearLrcTx s).draws = s.draws := rfl
@[simp] theorem clearLrcTx_host (s : State) : (clearLrcTx s).host = s.host := rfl

/-! ### updateLrcTx -/

@[simp] theorem updateLrcTx_link (b : Byte) (s : State) : (updateLrcTx b s).link = s.link := rfl
@[simp] theorem updateLrcTx_lrcTx (b : Byte) (s : State) : (updateLrcTx b s).lrcTx = s.lrcTx ^^^ b := rfl
@[simp] theorem updateLrcTx_acc (b : Byte) (s : State) : (updateLrcTx b s).acc = s.acc := rfl
@[simp] theorem updateLrcTx_wq (b : Byte) (s : State) : (updateLrcTx b s).wq = s.wq := rfl
@[simp] theorem updateLrcTx_cur (b : Byte) (s : State) : (updateLrcTx b s).cur = s.cur := rfl
@[simp] theorem updateLrcTx_lrc (b : Byte) (s : State) : (updateLrcTx b s).lrc = s.lrc := rfl
@[simp] theorem updateLrcTx_txLog (b : Byte) (s : State) : (updateLrcTx b s).txLog = s.txLog := rfl
@[simp] theorem updateLrcTx_rxLog (b : Byte) (s : State) : (updateLrcTx b s).rxLog = s.rxLog := rfl
@[simp] theorem updateLrcTx_frameLog (b : Byte) (s : State) : (updateLrcTx b s).frameLog = s.frameLog := rfl
@[simp] theorem updateLrcTx_diagLog (b : Byte) (s : State) : (updateLrcTx b s).diagLog = s.diagLog := rfl
@[simp] theorem updateLrcTx_doneLog (b : Byte) (s : State) : (updateLrcTx b s).doneLog = s.doneLog := rfl
@[simp] theorem updateLrcTx_result (b : Byte) (s : State) : (updateLrcTx b s).result = s.result := rfl
@[simp] theorem updateLrcTx_params (b : Byte) (s : State) : (updateLrcTx b s).params = s.params := rfl
@[simp] theorem updateLrcTx_env (b : Byte) (s : State) : (updateLrcTx b s).env = s.env := rfl
@[simp] theorem updateLrcTx_draws (b : Byte) (s : State) : (updateLrcTx b s).draws = s.draws := rfl
@[simp] theorem updateLrcTx_host (b : Byte) (s : State) : (updateLrcTx b s).host = s.host := rfl

/-! ### enqueue -/

@[simp] theorem enqueue_link (q : Request) (s : State) : (enqueue q s).link = s.link := rfl
@[simp] theorem enqueue_lrcTx (q : Request) (s : State) : (enqueue q s).lrcTx = s.lrcTx := rfl
@[simp] theorem enqueue_acc (q : Request) (s : State) : (enqueue q s).acc = s.acc := rfl
@[simp] theorem enqueue_wq (q : Request) (s : State) : (enqueue q s).wq = s.wq ++ [q] := rfl
@[simp] theorem enqueue_cur (q : Request) (s : State) : (enqueue q s).cur = s.cur := rfl
@[simp] theorem enqueue_lrc (q : Request) (s : State) : (enqueue q s).lrc = s.lrc := rfl
@[simp] theorem enqueue_txLog (q : Request) (s : State) : (enqueue q s).txLog = s.txLog := rfl
@[simp] theorem enqueue_rxLog (q : Request) (s : State) : (enqueue q s).rxLog = s.rxLog := rfl
@[simp] theorem enqueue_frameLog (q : Request) (s : State) : (enqueue q s).frameLog = s.frameLog := rfl
@[simp] theorem enqueue_diagLog (q : Request) (s : State) : (enqueue q s).diagLog = s.diagLog := rfl
@[simp] theorem enqueue_doneLog (q : Request) (s : State) : (enqueue q s).doneLog = s.doneLog := rfl
@[simp] theorem enqueue_result (q : Request) (s : State) : (enqueue q s).result = s.result := rfl
@[simp] theorem enqueue_params (q : Request) (s : State) : (enqueue q s).params = s.params := rfl
@[simp] theorem enqueue_env (q : Request) (s : State) : (enqueue q s).env = s.env := rfl
@[simp] theorem enqueue_draws (q : Request) (s : State) : (enqueue q s).draws = s.draws := rfl
@[simp] theorem enqueue_host (q : Request) (s : State) : (enqueue q s).host = s.host := rfl

/-! ### startWrite -/

@[simp] theorem startWrite_link (q : Request) (rest : List Request) (s : State) : (startWrite q rest s).link = s.link := rfl
@[simp] theorem startWrite_lrcTx (q : Request) (rest : List Request) (s : State) : (startWrite q rest s).lrcTx = s.lrcTx := rfl
@[simp] theorem startWrite_acc (q : Request) (rest : List Request) (s : State) : (startWrite q rest s).acc = s.acc := rfl
@[simp] theorem startWrite_wq (q : Request) (rest : List Request) (s : State) : (startWrite q rest s).wq = rest := rfl
@[simp] theorem startWrite_cur (q : Request) (rest : List Request) (s : State) : (startWrite q rest s).cur = some { req := q, idx := 0 } := rfl
@[simp] theorem startWrite_lrc (q : Request) (rest : List Request) (s : State) : (startWrite q rest s).lrc = s.lrc := rfl
@[simp] theorem startWrite_txLog (q : Request) (rest : List Request) (s : State) : (startWrite q rest s).txLog = s.txLog := rfl
@[simp] theorem startWrite_rxLog (q : Request) (rest : List Request) (s : State) : (startWrite q rest s).rxLog = s.rxLog := rfl
@[simp] theorem startWrite_frameLog (q : Request) (rest : List Request) (s : State) : (startWrite q rest s).frameLog = s.frameLog := rfl
@[simp] theorem startWrite_diagLog (q : Request) (rest : List Request) (s : State) : (startWrite q rest s).diagLog = s.diagLog := rfl
@[simp] theorem startWrite_doneLog (q : Request) (rest : List Request) (s : State) : (startWrite q rest s).doneLog = s.doneLog := rfl
@[simp] theorem startWrite_result (q : Request) (rest : List Request) (s : State) : (startWrite q rest s).result = s.result := rfl
@[simp] theorem startWrite_params (q : Request) (rest : List Request) (s : State) : (startWrite q rest s).params = s.params := rfl
@[simp] theorem startWrite_env (q : Request) (rest : List Request) (s : State) : (startWrite q rest s).env = s.env := rfl
@[simp] theorem startWrite_draws (q : Request) (rest : List Request) (s : State) : (startWrite q rest s).draws = s.draws := rfl
@[simp] theorem startWrite_host (q : Request) (rest : List Request) (s : State) : (startWrite q rest s).host = s.host := rfl

/-! ### advanceWrite -/

@[simp] theorem advanceWrite_link (a : Active) (s : State) : (advanceWrite a s).link = s.link := rfl
@[simp] theorem advanceWrite_lrcTx (a : Active) (s : State) : (advanceWrite a s).lrcTx = s.lrcTx := rfl
@[simp] theorem advanceWrite_acc (a : Active) (s : State) : (advanceWrite a s).acc = s.acc := rfl
@[simp] theorem advanceWrite_wq (a : Active) (s : State) : (advanceWrite a s).wq = s.wq := rfl
@[simp] theorem advanceWrite_cur (a : Active) (s : State) : (advanceWrite a s).cur = some { a with idx := a.idx + 1 } := rfl
@[simp] theorem advanceWrite_lrc (a : Active) (s : State) : (advanceWrite a s).lrc = s.lrc := rfl
@[simp] theorem advanceWrite_txLog (a : Active) (s : State) : (advanceWrite a s).txLog = s.txLog := rfl
@[simp] theorem advanceWrite_rxLog (a : Active) (s : State) : (advanceWrite a s).rxLog = s.rxLog := rfl
@[simp] theorem advanceWrite_frameLog (a : Active) (s : State) : (advanceWrite a s).frameLog = s.frameLog := rfl
@[simp] theorem advanceWrite_diagLog (a : Active) (s : State) : (advanceWrite a s).diagLog = s.diagLog := rfl
@[simp] theorem advanceWrite_doneLog (a : Active) (s : State) : (advanceWrite a s).doneLog = s.doneLog := rfl
@[simp] theorem advanceWrite_result (a : Active) (s : State) : (advanceWrite a s).result = s.result := rfl
@[simp] theorem advanceWrite_params (a : Active) (s : State) : (advanceWrite a s).params = s.params := rfl
@[simp] theorem advanceWrite_env (a : Active) (s : State) : (advanceWrite a s).env = s.env := rfl
@[simp] theorem advanceWrite_draws (a : Active) (s : State) : (advanceWrite a s).draws = s.draws := rfl
@[simp] theorem advanceWrite_host (a : Active) (s : State) : (advanceWrite a s).host = s.host := rfl

/-! ### endWrite -/

@[simp] theorem endWrite_link (s : State) : (endWrite s).link = s.link := rfl
@[simp] theorem endWrite_lrcTx (s : State) : (endWrite s).lrcTx = s.lrcTx := rfl
@[simp] theorem endWrite_acc (s : State) : (endWrite s).acc = s.acc := rfl
@[simp] theorem endWrite_wq (s : State) : (endWrite s).wq = s.wq := rfl
@[simp] theorem endWrite_cur (s : State) : (endWrite s).cur = none := rfl
@[simp] theorem endWrite_lrc (s : State) : (endWrite s).lrc = s.lrc := rfl
@[simp] theorem endWrite_txLog (s : State) : (endWrite s).txLog = s.txLog := rfl
@[simp] theorem endWrite_rxLog (s : State) : (endWrite s).rxLog = s.rxLog := rfl
@[simp] theorem endWrite_frameLog (s : State) : (endWrite s).frameLog = s.frameLog := rfl
@[simp] theorem endWrite_diagLog (s : State) : (endWrite s).diagLog = s.diagLog := rfl
@[simp] theorem endWrite_doneLog (s : State) : (endWrite s).doneLog = s.doneLog := rfl
@[simp] theorem endWrite_result (s : State) : (endWrite s).result = s.result := rfl
@[simp] theorem endWrite_params (s : State) : (endWrite s).params = s.params := rfl
@[simp] theorem endWrite_env (s : State) : (endWrite s).env = s.env := rfl
@[simp] theorem endWrite_draws (s : State) : (endWrite s).draws = s.draws := rfl
@[simp] theorem endWrite_host (s : State) : (endWrite s).host = s.host := rfl

/-! ### closeLink -/

@[simp] theorem closeLink_link (st : Status) (s : State) : (closeLink st s).link = .closed := rfl
@[simp] theorem closeLink_lrcTx (st : Status) (s : State) : (closeLink st s).lrcTx = s.lrcTx := rfl
@[simp] theorem closeLink_acc (st : Status) (s : State) : (closeLink st s).acc = [] := rfl
@[simp] theorem closeLink_wq (st : Status) (s : State) : (closeLink st s).wq = [] := rfl
@[simp] theorem closeLink_cur (st : Status) (s : State) : (closeLink st s).cur = none := rfl
@[simp] theorem closeLink_lrc (st : Status) (s : State) : (closeLink st s).lrc = s.lrc := rfl
@[simp] theorem closeLink_txLog (st : Status) (s : State) : (closeLink st s).txLog = s.txLog := rfl
@[simp] theorem closeLink_rxLog (st : Status) (s : State) : (closeLink st s).rxLog = s.rxLog := rfl
@[simp] theorem closeLink_frameLog (st : Status) (s : State) : (closeLink st s).frameLog = s.frameLog := rfl
@[simp] theorem closeLink_diagLog (st : Status) (s : State) : (closeLink st s).diagLog = s.diagLog := rfl
@[simp] theorem closeLink_doneLog (st : Status) (s : State) : (closeLink st s).doneLog = s.doneLog ++ s.cur.toList.map (fun a => (a.req.r, st)) ++ s.wq.map (fun q => (q.r, .linkClosed)) := rfl
@[simp] theorem closeLink_result (st : Status) (s : State) : (closeLink st s).result = s.result := rfl
@[simp] theorem closeLink_params (st : Status) (s : State) : (closeLink st s).params = s.params := rfl
@[simp] theorem closeLink_env (st : Status) (s : State) : (closeLink st s).env = s.env := rfl
@[simp] theorem closeLink_draws (st : Status) (s : State) : (closeLink st s).draws = s.draws := rfl
@[simp] theorem closeLink_host (st : Status) (s : State) : (closeLink st s).host = s.host := rfl

/-! ### openLink -/

@[simp] theorem openLink_link (s : State) : (openLink s).link = .opened := rfl
@[simp] theorem openLink_lrcTx (s : State) : (openLink s).lrcTx = s.lrcTx := rfl
@[simp] theorem openLink_acc (s : State) : (openLink s).acc = [] := rfl
@[simp] theorem openLink_wq (s : State) : (openLink s).wq = [] := rfl
@[simp] theorem openLink_cur (s : State) : (openLink s).cur = none := rfl
@[simp] theorem openLink_lrc (s : State) : (openLink s).lrc = s.lrc := rfl
@[simp] theorem openLink_txLog (s : State) : (openLink s).txLog = s.txLog := rfl
@[simp] theorem openLink_rxLog (s : State) : (openLink s).rxLog = s.rxLog := rfl
@[simp] theorem openLink_frameLog (s : State) : (openLink s).frameLog = s.frameLog := rfl
@[simp] theorem openLink_diagLog (s : State) : (openLink s).diagLog = s.diagLog := rfl
@[simp] theorem openLink_doneLog (s : State) : (openLink s).doneLog = s.doneLog := rfl
@[simp] theorem openLink_result (s : State) : (openLink s).result = s.result := rfl
@[simp] theorem openLink_params (s : State) : (openLink s).params = s.params := rfl
@[simp] theorem openLink_env (s : State) : (openLink s).env = s.env := rfl
@[simp] theorem openLink_draws (s : State) : (openLink s).draws = s.draws := rfl
@[simp] theorem openLink_host (s : State) : (openLink s).host = s.host := rfl

/-! ### resetPin -/

@[simp] theorem resetPin_link (s : State) : (resetPin s).link = .closed := rfl
@[simp] theorem resetPin_lrcTx (s : State) : (resetPin s).lrcTx = 0x00#8 := rfl
@[simp] theorem resetPin_acc (s : State) : (resetPin s).acc = [] := rfl
@[simp] theorem resetPin_wq (s : State) : (resetPin s).wq = [] := rfl
@[simp] theorem resetPin_cur (s : State) : (resetPin s).cur = none := rfl
@[simp] theorem resetPin_lrc (s : State) : (resetPin s).lrc = 0x00#8 := rfl
@[simp] theorem resetPin_txLog (s : State) : (resetPin s).txLog = s.txLog := rfl
@[simp] theorem resetPin_rxLog (s : State) : (resetPin s).rxLog = s.rxLog := rfl
@[simp] theorem resetPin_frameLog (s : State) : (resetPin s).frameLog = s.frameLog := rfl
@[simp] theorem resetPin_diagLog (s : State) : (resetPin s).diagLog = s.diagLog := rfl
@[simp] theorem resetPin_doneLog (s : State) : (resetPin s).doneLog = s.doneLog := rfl
@[simp] theorem resetPin_result (s : State) : (resetPin s).result = none := rfl
@[simp] theorem resetPin_params (s : State) : (resetPin s).params = s.params := rfl
@[simp] theorem resetPin_env (s : State) : (resetPin s).env = s.env := rfl
@[simp] theorem resetPin_draws (s : State) : (resetPin s).draws = s.draws := rfl
@[simp] theorem resetPin_host (s : State) : (resetPin s).host = s.host := rfl

/-! ### hostReact: the host alone -/

@[simp] theorem hostReact_link (s t : State) : (hostReact s t).link = t.link := rfl
@[simp] theorem hostReact_lrcTx (s t : State) : (hostReact s t).lrcTx = t.lrcTx := rfl
@[simp] theorem hostReact_acc (s t : State) : (hostReact s t).acc = t.acc := rfl
@[simp] theorem hostReact_wq (s t : State) : (hostReact s t).wq = t.wq := rfl
@[simp] theorem hostReact_cur (s t : State) : (hostReact s t).cur = t.cur := rfl
@[simp] theorem hostReact_lrc (s t : State) : (hostReact s t).lrc = t.lrc := rfl
@[simp] theorem hostReact_txLog (s t : State) : (hostReact s t).txLog = t.txLog := rfl
@[simp] theorem hostReact_rxLog (s t : State) : (hostReact s t).rxLog = t.rxLog := rfl
@[simp] theorem hostReact_frameLog (s t : State) : (hostReact s t).frameLog = t.frameLog := rfl
@[simp] theorem hostReact_diagLog (s t : State) : (hostReact s t).diagLog = t.diagLog := rfl
@[simp] theorem hostReact_doneLog (s t : State) : (hostReact s t).doneLog = t.doneLog := rfl
@[simp] theorem hostReact_result (s t : State) : (hostReact s t).result = t.result := rfl
@[simp] theorem hostReact_params (s t : State) : (hostReact s t).params = t.params := rfl
@[simp] theorem hostReact_env (s t : State) : (hostReact s t).env = t.env := rfl
@[simp] theorem hostReact_draws (s t : State) : (hostReact s t).draws = t.draws := rfl

/-! ### emitAccEvent: one of the two event streams -/

@[simp] theorem emitAccEvent_link (ev : AccEvent) (s : State) : (emitAccEvent ev s).link = s.link := by
  cases ev <;> rfl
@[simp] theorem emitAccEvent_lrcTx (ev : AccEvent) (s : State) : (emitAccEvent ev s).lrcTx = s.lrcTx := by
  cases ev <;> rfl
@[simp] theorem emitAccEvent_acc (ev : AccEvent) (s : State) : (emitAccEvent ev s).acc = s.acc := by
  cases ev <;> rfl
@[simp] theorem emitAccEvent_wq (ev : AccEvent) (s : State) : (emitAccEvent ev s).wq = s.wq := by
  cases ev <;> rfl
@[simp] theorem emitAccEvent_cur (ev : AccEvent) (s : State) : (emitAccEvent ev s).cur = s.cur := by
  cases ev <;> rfl
@[simp] theorem emitAccEvent_lrc (ev : AccEvent) (s : State) : (emitAccEvent ev s).lrc = s.lrc := by
  cases ev <;> rfl
@[simp] theorem emitAccEvent_txLog (ev : AccEvent) (s : State) : (emitAccEvent ev s).txLog = s.txLog := by
  cases ev <;> rfl
@[simp] theorem emitAccEvent_rxLog (ev : AccEvent) (s : State) : (emitAccEvent ev s).rxLog = s.rxLog := by
  cases ev <;> rfl
@[simp] theorem emitAccEvent_frameLog (ev : AccEvent) (s : State) :
    (emitAccEvent ev s).frameLog = s.frameLog ++ framesOf [ev] := by
  cases ev <;> simp [emitAccEvent, framesOf]
@[simp] theorem emitAccEvent_diagLog (ev : AccEvent) (s : State) :
    (emitAccEvent ev s).diagLog = s.diagLog ++ diagsOf [ev] := by
  cases ev <;> simp [emitAccEvent, diagsOf]
@[simp] theorem emitAccEvent_doneLog (ev : AccEvent) (s : State) : (emitAccEvent ev s).doneLog = s.doneLog := by
  cases ev <;> rfl
@[simp] theorem emitAccEvent_result (ev : AccEvent) (s : State) : (emitAccEvent ev s).result = s.result := by
  cases ev <;> rfl
@[simp] theorem emitAccEvent_params (ev : AccEvent) (s : State) : (emitAccEvent ev s).params = s.params := by
  cases ev <;> rfl
@[simp] theorem emitAccEvent_env (ev : AccEvent) (s : State) : (emitAccEvent ev s).env = s.env := by
  cases ev <;> rfl
@[simp] theorem emitAccEvent_draws (ev : AccEvent) (s : State) : (emitAccEvent ev s).draws = s.draws := by
  cases ev <;> rfl
@[simp] theorem emitAccEvent_host (ev : AccEvent) (s : State) : (emitAccEvent ev s).host = s.host := by
  cases ev <;> rfl

/-! ### Events of a sequence -/

@[simp] theorem framesOf_nil : framesOf [] = [] := rfl

@[simp] theorem diagsOf_nil : diagsOf [] = [] := rfl

@[simp] theorem framesOf_append (a b : List AccEvent) : framesOf (a ++ b) = framesOf a ++ framesOf b :=
  List.filterMap_append

@[simp] theorem diagsOf_append (a b : List AccEvent) : diagsOf (a ++ b) = diagsOf a ++ diagsOf b :=
  List.filterMap_append

end Sys2Proof.Laws
end

