-- ==== Sys2Proof/Laws/Accumulator.lean ====
section
/-! SUPPORT. The decode loop: its count, its effect on the state as a function of the buffer, and that it
ends (R156, R162, R165). -/

namespace Sys2Proof.Laws

open Sys2Proof Sys2Proof.Machine

/-- An outcome with an event takes at least one byte and no more than there are (R162). -/
theorem accEvent_count (maxData : Nat) (a : List Byte) (ev : AccEvent) (k : Nat)
    (h : accEvent (frameDecode maxData a) = some (ev, k)) : 1 ≤ k ∧ k ≤ a.length := by
  obtain ⟨o, ho, hs⟩ : ∃ o, frameDecode maxData a = o ∧ DecodeShape maxData a o :=
    ⟨_, rfl, frameDecode_shape maxData a⟩
  rw [ho] at h
  cases hs <;> simp [accEvent] at h <;> obtain ⟨-, rfl⟩ := h <;> simp
  exact List.length_pos_iff.mpr ‹_›

/-- There is no event exactly on NeedMoreBytes (R157). -/
theorem accEvent_eq_none (d : Decoded) : accEvent d = none ↔ d = .needMoreBytes := by
  cases d <;> simp [accEvent]

/-- The state is quiescent exactly when ACC.STEP has nothing to do (R156, R157). -/
theorem quiescent_iff (s : State) :
    quiescent s = true ↔ accEvent (frameDecode s.params.maxData s.acc) = none := by
  simp [quiescent, accEvent_eq_none]

/-- One ACC.STEP on the accumulator, written out (R157). -/
theorem accStepOnce_of_some {s : State} {ev : AccEvent} {k : Nat}
    (h : accEvent (frameDecode s.params.maxData s.acc) = some (ev, k)) :
    accStepOnce s = some (consume k (emitAccEvent ev s)) := by
  simp [accStepOnce, h]

/-- Where ACC.STEP is not enabled (R157). -/
theorem accStepOnce_of_none {s : State} (h : accEvent (frameDecode s.params.maxData s.acc) = none) :
    accStepOnce s = none := by
  simp [accStepOnce, h]

/-- What the decode loop does to a state, all of it: the buffer becomes what `Drain` leaves, the events of
`Drain` go to their streams, nothing else changes (R165). -/
theorem drainSteps_eq (n : Nat) (s : State) :
    drainSteps n s = { s with
      acc := (drainSeq s.params.maxData n s.acc).2
      frameLog := s.frameLog ++ framesOf (drainSeq s.params.maxData n s.acc).1
      diagLog := s.diagLog ++ diagsOf (drainSeq s.params.maxData n s.acc).1 } := by
  induction n generalizing s with
  | zero => simp [drainSteps, drainSeq]
  | succ n ih =>
    cases h : accEvent (frameDecode s.params.maxData s.acc) with
    | none => simp [drainSteps, drainSeq, accStepOnce_of_none h, h]
    | some p =>
      obtain ⟨ev, k⟩ := p
      simp only [drainSteps, drainSeq, accStepOnce_of_some h, h]
      rw [ih]
      cases ev <;> simp [consume, emitAccEvent, emitFrame, emitDiag, framesOf, diagsOf]

/-- What `drain` does to a state (R156, R165). -/
theorem drain_eq (s : State) :
    drain s = { s with
      acc := (drainOf s.params.maxData s.acc).2
      frameLog := s.frameLog ++ framesOf (drainOf s.params.maxData s.acc).1
      diagLog := s.diagLog ++ diagsOf (drainOf s.params.maxData s.acc).1 } := drainSteps_eq _ s

/-- With as many steps as bytes, `Drain` ends where nothing more can be resolved (R162). -/
theorem drainSeq_ends (maxData n : Nat) (a : List Byte) (hn : a.length ≤ n) :
    accEvent (frameDecode maxData (drainSeq maxData n a).2) = none := by
  induction n generalizing a with
  | zero =>
    have : a = [] := List.length_eq_zero_iff.mp (by omega)
    subst this
    rfl
  | succ n ih =>
    cases h : accEvent (frameDecode maxData a) with
    | none => simp [drainSeq, h]
    | some p =>
      obtain ⟨ev, k⟩ := p
      have := accEvent_count maxData a ev k h
      simp only [drainSeq, h]
      exact ih _ (by simp; omega)

/-- More steps than bytes make no difference (R162). -/
theorem drainSeq_enough (maxData n : Nat) (a : List Byte) (hn : a.length ≤ n) :
    drainSeq maxData n a = drainOf maxData a := by
  suffices ∀ m n (a : List Byte), a.length ≤ m → a.length ≤ n → drainSeq maxData m a = drainSeq maxData n a from
    this n a.length a hn (Nat.le_refl _)
  intro m
  induction m with
  | zero =>
    intro n a h1 _
    have : a = [] := List.length_eq_zero_iff.mp (by omega)
    subst this
    cases n <;> rfl
  | succ m ih =>
    intro n a h1 h2
    cases h : accEvent (frameDecode maxData a) with
    | none => cases n <;> simp [drainSeq, h]
    | some p =>
      obtain ⟨ev, k⟩ := p
      have := accEvent_count maxData a ev k h
      cases n with
      | zero => omega
      | succ n =>
        simp only [drainSeq, h]
        rw [ih n (a.drop k) (by simp; omega) (by simp; omega)]

/-- `Drain` of a quiescent buffer (R165). -/
theorem drainOf_of_none {maxData : Nat} {a : List Byte} (h : accEvent (frameDecode maxData a) = none) :
    drainOf maxData a = ([], a) := by
  unfold drainOf
  cases a.length <;> simp [drainSeq, h]

/-- `Drain` of a buffer with something to resolve: one event, and `Drain` of the rest (R165). -/
theorem drainOf_of_some {maxData : Nat} {a : List Byte} {ev : AccEvent} {k : Nat}
    (h : accEvent (frameDecode maxData a) = some (ev, k)) :
    drainOf maxData a = (ev :: (drainOf maxData (a.drop k)).1, (drainOf maxData (a.drop k)).2) := by
  have hk := accEvent_count maxData a ev k h
  have : a.length = (a.length - 1) + 1 := by omega
  conv => lhs; rw [drainOf, this]
  simp only [drainSeq, h]
  rw [drainSeq_enough maxData (a.length - 1) (a.drop k) (by simp; omega)]

/-- What `Drain` leaves is quiescent (R162). -/
theorem drainOf_ends (maxData : Nat) (a : List Byte) :
    accEvent (frameDecode maxData (drainOf maxData a).2) = none := drainSeq_ends maxData _ a (Nat.le_refl _)

/-- The accumulator after any decode loop is no longer than before (R162, R164). -/
theorem drainOf_length (maxData : Nat) (a : List Byte) : (drainOf maxData a).2.length ≤ a.length := by
  suffices ∀ n (a : List Byte), (drainSeq maxData n a).2.length ≤ a.length from this _ a
  intro n
  induction n with
  | zero => intro a; exact Nat.le_refl _
  | succ n ih =>
    intro a
    cases h : accEvent (frameDecode maxData a) with
    | none => simp [drainSeq, h]
    | some p =>
      obtain ⟨ev, k⟩ := p
      simp only [drainSeq, h]
      have := ih (a.drop k)
      simp at this
      omega

/-- The receiver bringing one byte changes the accumulator, `rx_log`, `frame_log` and `diag_log` alone
(R52). -/
theorem receiveByte_frame (s : State) (b : Byte) :
    receiveByte s b = { s with
      acc := (receiveByte s b).acc, rxLog := s.rxLog ++ [b]
      frameLog := (receiveByte s b).frameLog, diagLog := (receiveByte s b).diagLog } := by
  simp [receiveByte, drain_eq, pushByte]

/-- Bytes one after the other change the accumulator, `rx_log`, `frame_log` and `diag_log` alone (R52). -/
theorem foldl_receiveByte_frame (bs : List Byte) (s : State) :
    bs.foldl receiveByte s = { s with
      acc := (bs.foldl receiveByte s).acc, rxLog := (bs.foldl receiveByte s).rxLog
      frameLog := (bs.foldl receiveByte s).frameLog, diagLog := (bs.foldl receiveByte s).diagLog } := by
  induction bs generalizing s with
  | nil => rfl
  | cons b bs ih =>
    rw [List.foldl_cons, ih (receiveByte s b), receiveByte_frame]

/-- The receiver bringing bytes changes the accumulator, `rx_log`, `frame_log` and `diag_log` alone, and
nothing at all while the link is Closed (R52, R155). -/
theorem receive_frame (bs : List Byte) (s : State) :
    receive bs s = { s with
      acc := (receive bs s).acc, rxLog := (receive bs s).rxLog
      frameLog := (receive bs s).frameLog, diagLog := (receive bs s).diagLog } := by
  unfold receive
  split
  · rfl
  · exact foldl_receiveByte_frame bs s

end Sys2Proof.Laws
end

