-- ==== Sys2Proof/Laws/Exec.lean ====
section
/-! SUPPORT. Once and for all: every way an instruction can answer a next state (R96), so that no proof
unfolds `exec` again. -/

namespace Sys2Proof.Laws

open Sys2Proof Sys2Proof.Machine

/-- The next states of the instructions, with the conditions under which they are reached. -/
inductive ExecNext : Instr → State → State → Prop where
  /-- R112. -/
  | lrcClr (s : State) : ExecNext .lrcClr s (setResult none { s with lrc := lrcClear })
  /-- R113. -/
  | lrcUpd (b : Byte) (s : State) : ExecNext (.lrcUpd b) s (setResult none { s with lrc := lrcUpdate s.lrc b })
  /-- R114. -/
  | lrcRd (s : State) : ExecNext .lrcRd s (setResult (some (.byte s.lrc)) s)
  /-- R120. -/
  | enc (cmd sub : Field2) (data : List Byte) (s : State) (res : Result) :
      ExecNext (.enc cmd sub data) s (setResult (some res) s)
  /-- R124. -/
  | txEmit (s : State) (a : Active) (hl : s.link = .opened) (hc : s.cur = some a)
      (hi : a.idx < frameLength a.req) : ExecNext .txEmit s (setResult none (emitNextByte a s))
  /-- R135. -/
  | dec (buf : List Byte) (s : State) (res : Result) : ExecNext (.dec buf) s (setResult (some res) s)
  /-- R155. -/
  | rxPush (b : Byte) (s : State) (hl : s.link = .opened) (hq : quiescent s = true) :
      ExecNext (.rxPush b) s (setResult none (pushByte b s))
  /-- R157. -/
  | accStep (s : State) (ev : AccEvent) (k : Nat) (hl : s.link = .opened)
      (he : accEvent (frameDecode s.params.maxData s.acc) = some (ev, k)) :
      ExecNext .accStep s (setResult none (consume k (emitAccEvent ev s)))
  /-- R177, ConnectionError. -/
  | linkOpenFails (ok : Bool) (s : State) :
      ExecNext (.linkOpen ok) s (setResult (some (.status .connectionError)) s)
  /-- R177, Ok. -/
  | linkOpen (s : State) (hl : s.link = .closed) :
      ExecNext (.linkOpen true) s (setResult (some (.status (.ok none))) (openLink s))
  /-- R178 on a closed link. -/
  | linkCloseClosed (s : State) (hl : s.link = .closed) : ExecNext .linkClose s (setResult none s)
  /-- R178. -/
  | linkClose (s : State) (hl : s.link = .opened) :
      ExecNext .linkClose s (setResult none (closeLink .linkClosed s))
  /-- R179. -/
  | linkTerr (s : State) (hl : s.link = .opened) :
      ExecNext .linkTerr s (setResult none (emitDiag .transportFailure (closeLink .transportError s)))
  /-- R180, completed at once. -/
  | wrReqCompleted (r : Nat) (cmd sub : Field2) (data : List Byte) (s : State) (st : Status)
      (hr : r < s.params.nreq) (ho : r ∉ outstanding s) (hst : st = .frameTooLarge ∨ st = .linkClosed) :
      ExecNext (.wrReq r cmd sub data) s (setResult none (complete r st s))
  /-- R180, queued. -/
  | wrReqQueued (r : Nat) (cmd sub : Field2) (data : List Byte) (s : State)
      (hr : r < s.params.nreq) (ho : r ∉ outstanding s) (hd : data.length ≤ s.params.maxData)
      (hl : s.link = .opened) :
      ExecNext (.wrReq r cmd sub data) s
        (setResult none (enqueue { r := r, cmd := cmd, sub := sub, data := data } s))
  /-- R181. -/
  | wrGrant (s : State) (q : Request) (rest : List Request) (hl : s.link = .opened) (hc : s.cur = none)
      (hw : s.wq = q :: rest) : ExecNext .wrGrant s (setResult none (clearLrcTx (startWrite q rest s)))
  /-- R182. -/
  | wrDone (s : State) (a : Active) (hc : s.cur = some a) (hi : a.idx = frameLength a.req) :
      ExecNext .wrDone s
        (setResult none (endWrite (complete a.req.r (.ok (some (frameLength a.req))) s)))
  /-- R84, R90, R80: bytes the receiver brings. -/
  | wire (i : Instr) (bs : List Byte) (s : State) (hf : i.format ≠ .op5) :
      ExecNext i s (setResult none (receive bs s))

/-- Every next state of `exec` is one of those. -/
theorem exec_next {i : Instr} {s t : State} (h : exec i s = .next t) : ExecNext i s t := by
  have hwire : ∀ bs, i.format ≠ .op5 → receiveWire bs s = .next t → ExecNext i s t := by
    intro bs hf hw
    simp only [receiveWire, Host.Outcome.next.injEq] at hw
    subst hw
    exact .wire i bs s hf
  cases i with
  | lrcClr => cases h; exact .lrcClr s
  | lrcUpd b => cases h; exact .lrcUpd b s
  | lrcRd => cases h; exact .lrcRd s
  | enc cmd sub data =>
    simp only [exec, execEnc] at h
    split at h <;> cases h <;> exact .enc cmd sub data s _
  | txEmit =>
    simp only [exec, execTxEmit] at h
    repeat' split at h
    all_goals cases h
    exact .txEmit s _ ‹_› ‹_› ‹_›
  | dec buf => cases h; exact .dec buf s _
  | rxPush b =>
    simp only [exec, execRxPush] at h
    repeat' split at h
    all_goals cases h
    exact .rxPush b s ‹_› ‹_›
  | accStep =>
    cases he : accEvent (frameDecode s.params.maxData s.acc) with
    | none => simp only [exec, execAccStep, accStepOnce, he] at h; split at h <;> cases h
    | some p =>
      simp only [exec, execAccStep, accStepOnce, he] at h
      split at h <;> cases h
      exact .accStep s p.1 p.2 ‹_› he
  | linkOpen ok =>
    simp only [exec, execLinkOpen] at h
    repeat' split at h
    all_goals cases h
    · exact .linkOpenFails ok s
    · rename_i hl hok
      subst hok
      exact .linkOpen s hl
    · exact .linkOpenFails ok s
  | linkClose =>
    simp only [exec, execLinkClose] at h
    repeat' split at h
    all_goals cases h
    · exact .linkCloseClosed s ‹_›
    · exact .linkClose s ‹_›
  | linkTerr =>
    simp only [exec, execLinkTerr] at h
    repeat' split at h
    all_goals cases h
    exact .linkTerr s ‹_›
  | wrReq r cmd sub data =>
    simp only [exec, execWrReq] at h
    repeat' split at h
    all_goals cases h
    · exact .wrReqCompleted r cmd sub data s _ (by omega) ‹_› (.inl rfl)
    · exact .wrReqCompleted r cmd sub data s _ (by omega) ‹_› (.inr rfl)
    · exact .wrReqQueued r cmd sub data s (by omega) ‹_› (by omega) ‹_›
  | wrGrant =>
    simp only [exec, execWrGrant] at h
    repeat' split at h
    all_goals cases h
    exact .wrGrant s _ _ ‹_› ‹_› ‹_›
  | wrDone =>
    simp only [exec, execWrDone] at h
    repeat' split at h
    all_goals cases h
    exact .wrDone s _ ‹_› ‹_›
  | stx => exact hwire _ (by decide) h
  | etx => exact hwire _ (by decide) h
  | other b => exact hwire _ (by simp [Instr.format]) h
  | hdrMcDc => exact hwire _ (by decide) h
  | hdrRqId => exact hwire _ (by decide) h
  | hdrRqIw => exact hwire _ (by decide) h
  | hdrMcLz => exact hwire _ (by decide) h
  | hdrRqMi => exact hwire _ (by decide) h
  | hdrRqEr => exact hwire _ (by decide) h
  | hdrMcEz => exact hwire _ (by decide) h
  | hdrMcWp => exact hwire _ (by decide) h
  | hdrMcPd => exact hwire _ (by decide) h
  | hdrMcRt => exact hwire _ (by decide) h
  | frameL0 cmd sub l => exact hwire _ (by simp [Instr.format]) h
  | frameL1 cmd sub d l => exact hwire _ (by simp [Instr.format]) h

end Sys2Proof.Laws
end

