-- ==== Sys2Proof/Laws/Step.lean ====
section
/-! SUPPORT. Once and for all: every way an event and a step can answer a next state (R19, R252). -/

namespace Sys2Proof.Laws

open Sys2Proof Sys2Proof.Machine

/-- No instruction touches the host, the schedule, the draws or the open parameters. -/
theorem exec_keeps {i : Instr} {s t : State} (h : exec i s = .next t) :
    t.host = s.host ∧ t.env = s.env ∧ t.draws = s.draws ∧ t.params = s.params := by
  cases exec_next h with
  | txEmit _ a =>
    simp only [setResult_host, setResult_env, setResult_draws, setResult_params, emitNextByte]
    split <;> simp
  | accStep _ ev => cases ev <;> simp [emitAccEvent]
  | wire _ bs => rw [receive_frame]; simp
  | _ => exact ⟨rfl, rfl, rfl, rfl⟩

/-- Where the link is Closed the host's reaction leaves nobody pending or waiting (R212). -/
theorem hostReact_closed {s t : State} (h : t.link = .closed) :
    (hostReact s t).host.pending = none ∧ (hostReact s t).host.waiters = [] := by
  simp only [hostReact, h, if_true, releaseAll, and_self]

/-- The host does not react to a step that delivers no frame and leaves the link Open (R209, R212). -/
theorem hostReact_quiet {s t : State} (hf : t.frameLog = s.frameLog) (hl : t.link = .opened) :
    hostReact s t = t := by
  cases t
  cases hf
  cases hl
  simp [hostReact]

/-- What the host's own events can do: change the host alone, or issue one operation on the block with the
host changed first: WR.REQ, LINK.OPEN or LINK.CLOSE (R208, R213, R220, R222). -/
inductive HostNext (h : HostEvent) (s : State) : State → Prop where
  /-- EXECUTE, TIMEOUT, TICK. -/
  | hostAlone (hs : HostState) : HostNext h s { s with host := hs }
  /-- SUBMIT, `open`, `close`. -/
  | issued (hs : HostState) (i : Instr) (t : State)
      (hi : (∃ cmd sub data, i = .wrReq hostPort cmd sub data) ∨ (∃ portOk, i = .linkOpen portOk) ∨
        i = .linkClose)
      (ht : exec i { s with host := hs } = .next t) : HostNext h s t

/-- Every next state of a host event is one of those. -/
theorem hostStep_next {h : HostEvent} {s t : State} (ht : hostStep h s = .next t) : HostNext h s t := by
  cases h with
  | acquire caller portOk =>
    simp only [hostStep, hostAcquire] at ht
    split at ht
    · cases ht
    · exact .issued _ (.linkOpen _) t (.inr (.inl ⟨_, rfl⟩)) ht
  | leave caller path =>
    simp only [hostStep, hostLeave] at ht
    repeat' split at ht
    all_goals try cases ht
    exact .issued _ .linkClose t (.inr (.inr rfl)) ht
  | execute c =>
    simp only [hostStep, hostCall] at ht
    repeat' split at ht
    all_goals cases ht
    all_goals exact .hostAlone _
  | submit =>
    simp only [hostStep, hostSubmit] at ht
    repeat' split at ht
    all_goals try cases ht
    exact .issued _ (.wrReq _ _ _ _) t (.inl ⟨_, _, _, rfl⟩) ht
  | timeout =>
    simp only [hostStep, hostTimeout] at ht
    repeat' split at ht
    all_goals cases ht
    all_goals exact .hostAlone _
  | tick => cases ht; exact .hostAlone _

/-- What one event can do: an instruction, the reset pin, or the host, and then the host's reaction. -/
inductive EventNext (s : State) : Event → State → Prop where
  /-- A record of the table. -/
  | record (fmt : Format) (bytes tail : List Byte) (i : Instr) (t : State)
      (hd : decodeRecord fmt bytes = .ok (i, tail)) (hw : i.wf = true) (ht : exec i s = .next t) :
      EventNext s (.record fmt bytes) (hostReact s t)
  /-- R281. -/
  | resetPin : EventNext s .resetPin (hostReact s (resetPin s))
  /-- The host's own. -/
  | host (h : HostEvent) (t : State) (ht : HostNext h s t) (he : hostStep h s = .next t) :
      EventNext s (.host h) (hostReact s t)

/-- Only a next state settles into a next state, the one the host has reacted to. -/
theorem settle_next {s t : State} {o : Host.Outcome State Fault Refusal} (h : settle s o = .next t) :
    ∃ u, o = .next u ∧ t = hostReact s u := by
  cases o with
  | next u => exact ⟨u, rfl, by simpa [settle] using h.symm⟩
  | fault f => cases f
  | refused r => cases h

/-- Every next state of an event is one of those. -/
theorem runEvent_next {e : Event} {s t : State} (h : runEvent e s = .next t) : EventNext s e t := by
  cases e with
  | record fmt bytes =>
    obtain ⟨u, hu, rfl⟩ := settle_next h
    simp only [runRecord] at hu
    split at hu
    · cases hu
    · rename_i i tail hd
      split at hu
      · exact .record fmt bytes tail i u hd ‹_› hu
      · cases hu
  | resetPin => cases h; exact .resetPin
  | host ev =>
    obtain ⟨u, hu, rfl⟩ := settle_next h
    exact .host ev u (hostStep_next hu) hu

/-- Every next state of a step under a law of draws: the next event of the schedule, or past its end the
drawn one, or nothing but the draw (log entry 4). -/
theorem stepWith_next {draw : Nat → Event} {s t : State} (h : stepWith draw s = .next t) :
    (∃ e rest, s.env = e :: rest ∧ EventNext { s with env := rest } e t) ∨
    (s.env = [] ∧
      (EventNext { s with draws := s.draws + 1 } (draw s.draws) t ∨
        t = { s with draws := s.draws + 1 })) := by
  unfold stepWith at h
  split at h
  · rename_i e rest he
    exact .inl ⟨e, rest, he, runEvent_next h⟩
  · rename_i he
    refine .inr ⟨he, ?_⟩
    cases ho : runEvent (draw s.draws) { s with draws := s.draws + 1 } with
    | next u =>
      rw [ho] at h
      cases h
      exact .inl (runEvent_next ho)
    | fault f => cases f
    | refused r =>
      rw [ho] at h
      cases h
      exact .inr rfl

/-- The same of the machine's own step. -/
theorem step_next {s t : State} (h : step s = .next t) :
    (∃ e rest, s.env = e :: rest ∧ EventNext { s with env := rest } e t) ∨
    (s.env = [] ∧
      (EventNext { s with draws := s.draws + 1 } (Config.nextEvent s.draws) t ∨
        t = { s with draws := s.draws + 1 })) :=
  stepWith_next h

/-- An event of the schedule is taken off it and happens. -/
theorem stepWith_scheduled {draw : Nat → Event} {s : State} {e : Event} {rest : List Event}
    (h : s.env = e :: rest) : stepWith draw s = runEvent e { s with env := rest } := by
  simp only [stepWith, h]

/-- Past the end of the schedule the drawn event happens, or passes as idle. -/
theorem stepWith_drawn {draw : Nat → Event} {s : State} (h : s.env = []) :
    stepWith draw s =
      orIdle { s with draws := s.draws + 1 } (runEvent (draw s.draws) { s with draws := s.draws + 1 }) := by
  simp only [stepWith, h]

end Sys2Proof.Laws
end

