-- ==== Sys2Proof/Laws/Liveness.lean ====
section
/-! SUPPORT. When each operation that fairness speaks of is enabled (R18, R300), and each event of the host's
progress (R208, R213), in terms of the state. -/

namespace Sys2Proof.Laws

open Sys2Proof Sys2Proof.Machine

/-- R181. -/
theorem enabled_wrGrant_iff {s : State} : enabled .wrGrant s ↔ s.link = .opened ∧ s.cur = none ∧ s.wq ≠ [] := by
  constructor
  · rintro ⟨t, h⟩
    cases exec_next h with
    | wrGrant _ q rest hl hc hw => exact ⟨hl, hc, by simp [hw]⟩
    | wire _ bs _ hf => exact absurd rfl hf
  · rintro ⟨hl, hc, hw⟩
    obtain ⟨q, rest, hq⟩ := List.exists_cons_of_ne_nil hw
    exact ⟨_, by simp only [exec, execWrGrant, hl, hc, hq]; rfl⟩

/-- R124. -/
theorem enabled_txEmit_iff {s : State} :
    enabled .txEmit s ↔ s.link = .opened ∧ ∃ a, s.cur = some a ∧ a.idx < frameLength a.req := by
  constructor
  · rintro ⟨t, h⟩
    cases exec_next h with
    | txEmit _ a hl hc hi => exact ⟨hl, a, hc, hi⟩
    | wire _ bs _ hf => exact absurd rfl hf
  · rintro ⟨hl, a, hc, hi⟩
    exact ⟨_, by simp only [exec, execTxEmit, hl, hc, if_pos hi]; rfl⟩

/-- R182. -/
theorem enabled_wrDone_iff {s : State} :
    enabled .wrDone s ↔ ∃ a, s.cur = some a ∧ a.idx = frameLength a.req := by
  constructor
  · rintro ⟨t, h⟩
    cases exec_next h with
    | wrDone _ a hc hi => exact ⟨a, hc, hi⟩
    | wire _ bs _ hf => exact absurd rfl hf
  · rintro ⟨a, hc, hi⟩
    exact ⟨_, by simp only [exec, execWrDone, hc, if_pos hi]; rfl⟩

/-- R157. -/
theorem enabled_accStep_iff {s : State} : enabled .accStep s ↔ s.link = .opened ∧ quiescent s = false := by
  constructor
  · rintro ⟨t, h⟩
    cases exec_next h with
    | accStep _ ev k hl he =>
      refine ⟨hl, ?_⟩
      cases hd : frameDecode s.params.maxData s.acc <;> simp [hd, accEvent, quiescent] at he ⊢
    | wire _ bs _ hf => exact absurd rfl hf
  · rintro ⟨hl, hq⟩
    simp only [enabled, exec, execAccStep, hl, accStepOnce]
    cases hd : frameDecode s.params.maxData s.acc <;> simp [hd, quiescent] at hq <;> simp [accEvent]

/-- R180, R293: WR.REQ is answered on any link, whatever its data. -/
theorem enabled_wrReq_iff {r : Nat} {cmd sub : Field2} {data : List Byte} {s : State} :
    enabled (.wrReq r cmd sub data) s ↔ r < s.params.nreq ∧ r ∉ outstanding s := by
  simp only [enabled, exec, execWrReq]
  by_cases hn : s.params.nreq ≤ r
  · simp [hn]
  · by_cases ho : r ∈ outstanding s
    · simp [hn, ho]
    · simp only [hn, ho, ↓reduceIte, Nat.lt_of_not_le hn, not_false_eq_true, and_self, iff_true]
      split
      · exact ⟨_, rfl⟩
      · split <;> exact ⟨_, rfl⟩

/-- R208, R211: SUBMIT waits for the link, for the attempt in flight, for a caller and for the host's port. -/
theorem hostEnabled_submit_iff {s : State} :
    hostEnabled .submit s ↔ s.link = .opened ∧ s.host.pending = none ∧ s.host.waiters ≠ [] ∧
      hostPort ∉ outstanding s ∧ 0 < s.params.nreq := by
  constructor
  · rintro ⟨t, h⟩
    simp only [hostStep, hostSubmit] at h
    split at h
    · rename_i w rest hl hp hw
      split at h
      · cases h
      · rename_i ho
        refine ⟨hl, hp, by simp [hw], ho, Nat.pos_of_ne_zero fun h0 => ?_⟩
        simp [execWrReq, h0] at h
    · cases h
  · rintro ⟨hl, hp, hw, ho, hn⟩
    obtain ⟨w, rest, hq⟩ := List.exists_cons_of_ne_nil hw
    simp only [hostEnabled, hostStep, hostSubmit, hl, hp, hq, if_neg ho]
    exact enabled_wrReq_iff.mpr ⟨hn, ho⟩

/-- R213, R248: TIMEOUT waits for the attempt's time to pass. -/
theorem hostEnabled_timeout_iff {s : State} :
    hostEnabled .timeout s ↔
      ∃ p, s.host.pending = some p ∧ p.submitted + p.call.timeout ≤ s.host.clock := by
  simp only [hostEnabled, hostStep, hostTimeout]
  split
  · rename_i hp; simp [hp]
  · rename_i p hp
    by_cases hc : s.host.clock < p.submitted + p.call.timeout
    · simp [hp, hc]
    · simp only [if_neg hc, hp]
      exact ⟨fun _ => ⟨p, rfl, Nat.le_of_not_lt hc⟩, fun _ => by split <;> exact ⟨_, rfl⟩⟩

/-- R209, R248: time always goes on. -/
theorem hostEnabled_tick (s : State) : hostEnabled .tick s := ⟨_, rfl⟩

end Sys2Proof.Laws
end

