-- ==== Sys2Proof/Laws/PerInstr.lean ====
section
/-! SUPPORT. Per instruction: the record of a row holds the bits that spec/opcode_table.json fixes for it
(R97). -/

namespace Sys2Proof.Laws.EncodesItsRow

open Sys2Proof

/-- The fixed bits of a row as (mask, match) pairs, one per byte, first byte on the wire first; for an
operation the five bits of the OPX (R96, R97). -/
def rowPattern (i : Instr) : List (Byte × Byte) :=
  match i with
  | .lrcClr => [(0x1F#8, 0x00#8)]
  | .lrcUpd _ => [(0x1F#8, 0x01#8)]
  | .lrcRd => [(0x1F#8, 0x02#8)]
  | .enc _ _ _ => [(0x1F#8, 0x03#8)]
  | .txEmit => [(0x1F#8, 0x04#8)]
  | .dec _ => [(0x1F#8, 0x05#8)]
  | .rxPush _ => [(0x1F#8, 0x06#8)]
  | .accStep => [(0x1F#8, 0x07#8)]
  | .linkOpen _ => [(0x1F#8, 0x08#8)]
  | .linkClose => [(0x1F#8, 0x09#8)]
  | .linkTerr => [(0x1F#8, 0x0A#8)]
  | .wrReq _ _ _ _ => [(0x1F#8, 0x0B#8)]
  | .wrGrant => [(0x1F#8, 0x0C#8)]
  | .wrDone => [(0x1F#8, 0x0D#8)]
  | .stx => [(0xFF#8, 0x02#8)]
  | .etx => [(0xFF#8, 0x03#8)]
  | .other _ => [(0x00#8, 0x00#8)]
  | .hdrMcDc => [(0xFF#8, 0x02#8), (0xFF#8, 0x4D#8), (0xFF#8, 0x43#8), (0xFF#8, 0x44#8), (0xFF#8, 0x43#8)]
  | .hdrRqId => [(0xFF#8, 0x02#8), (0xFF#8, 0x52#8), (0xFF#8, 0x51#8), (0xFF#8, 0x49#8), (0xFF#8, 0x44#8)]
  | .hdrRqIw => [(0xFF#8, 0x02#8), (0xFF#8, 0x52#8), (0xFF#8, 0x51#8), (0xFF#8, 0x49#8), (0xFF#8, 0x57#8)]
  | .hdrMcLz => [(0xFF#8, 0x02#8), (0xFF#8, 0x4D#8), (0xFF#8, 0x43#8), (0xFF#8, 0x4C#8), (0xFF#8, 0x5A#8)]
  | .hdrRqMi => [(0xFF#8, 0x02#8), (0xFF#8, 0x52#8), (0xFF#8, 0x51#8), (0xFF#8, 0x4D#8), (0xFF#8, 0x49#8)]
  | .hdrRqEr => [(0xFF#8, 0x02#8), (0xFF#8, 0x52#8), (0xFF#8, 0x51#8), (0xFF#8, 0x45#8), (0xFF#8, 0x52#8)]
  | .hdrMcEz => [(0xFF#8, 0x02#8), (0xFF#8, 0x4D#8), (0xFF#8, 0x43#8), (0xFF#8, 0x45#8), (0xFF#8, 0x5A#8)]
  | .hdrMcWp => [(0xFF#8, 0x02#8), (0xFF#8, 0x4D#8), (0xFF#8, 0x43#8), (0xFF#8, 0x57#8), (0xFF#8, 0x50#8)]
  | .hdrMcPd => [(0xFF#8, 0x02#8), (0xFF#8, 0x4D#8), (0xFF#8, 0x43#8), (0xFF#8, 0x50#8), (0xFF#8, 0x44#8)]
  | .hdrMcRt => [(0xFF#8, 0x02#8), (0xFF#8, 0x4D#8), (0xFF#8, 0x43#8), (0xFF#8, 0x52#8), (0xFF#8, 0x54#8)]
  | .frameL0 _ _ _ =>
    [(0xFF#8, 0x02#8), (0x00#8, 0x00#8), (0x00#8, 0x00#8), (0x00#8, 0x00#8), (0x00#8, 0x00#8),
     (0xFF#8, 0x03#8), (0x00#8, 0x00#8)]
  | .frameL1 _ _ _ _ =>
    [(0xFF#8, 0x02#8), (0x00#8, 0x00#8), (0x00#8, 0x00#8), (0x00#8, 0x00#8), (0x00#8, 0x00#8),
     (0x00#8, 0x00#8), (0xFF#8, 0x03#8), (0x00#8, 0x00#8)]

/-- The bytes hold the fixed bits of the pattern, in its length at least. -/
def holds (pattern : List (Byte × Byte)) (bytes : List Byte) : Bool :=
  match pattern, bytes with
  | [], _ => true
  | _ :: _, [] => false
  | p :: ps, b :: bs => b &&& p.1 == p.2 && holds ps bs

/-- The record of a well-formed row holds the row's fixed bits. -/
def Statement (i : Instr) : Prop := i.wf = true → holds (rowPattern i) (encode i) = true

theorem lrcClr : Statement (.lrcClr) := fun _ => rfl

theorem lrcUpd (b : Byte) : Statement (.lrcUpd b) := fun _ => rfl

theorem lrcRd : Statement (.lrcRd) := fun _ => rfl

theorem enc (cmd sub : Field2) (data : List Byte) : Statement (.enc cmd sub data) := fun _ => rfl

theorem txEmit : Statement (.txEmit) := fun _ => rfl

theorem dec (buf : List Byte) : Statement (.dec buf) := fun _ => rfl

theorem rxPush (b : Byte) : Statement (.rxPush b) := fun _ => rfl

theorem accStep : Statement (.accStep) := fun _ => rfl

theorem linkOpen (ok : Bool) : Statement (.linkOpen ok) := fun _ => rfl

theorem linkClose : Statement (.linkClose) := fun _ => rfl

theorem linkTerr : Statement (.linkTerr) := fun _ => rfl

theorem wrReq (r : Nat) (cmd sub : Field2) (data : List Byte) : Statement (.wrReq r cmd sub data) := fun _ => rfl

theorem wrGrant : Statement (.wrGrant) := fun _ => rfl

theorem wrDone : Statement (.wrDone) := fun _ => rfl

theorem stx : Statement (.stx) := fun _ => rfl

theorem etx : Statement (.etx) := fun _ => rfl

theorem other (b : Byte) : Statement (.other b) := by
  intro _; simp [holds, rowPattern, encode]

theorem hdrMcDc : Statement (.hdrMcDc) := fun _ => rfl

theorem hdrRqId : Statement (.hdrRqId) := fun _ => rfl

theorem hdrRqIw : Statement (.hdrRqIw) := fun _ => rfl

theorem hdrMcLz : Statement (.hdrMcLz) := fun _ => rfl

theorem hdrRqMi : Statement (.hdrRqMi) := fun _ => rfl

theorem hdrRqEr : Statement (.hdrRqEr) := fun _ => rfl

theorem hdrMcEz : Statement (.hdrMcEz) := fun _ => rfl

theorem hdrMcWp : Statement (.hdrMcWp) := fun _ => rfl

theorem hdrMcPd : Statement (.hdrMcPd) := fun _ => rfl

theorem hdrMcRt : Statement (.hdrMcRt) := fun _ => rfl

theorem frameL0 (cmd sub : Field2) (l : Byte) : Statement (.frameL0 cmd sub l) := by
  intro _; simp [holds, rowPattern, encode, Field2.toList, Config.stxByte, Config.etxByte]

theorem frameL1 (cmd sub : Field2) (d l : Byte) : Statement (.frameL1 cmd sub d l) := by
  intro _; simp [holds, rowPattern, encode, Field2.toList, Config.stxByte, Config.etxByte]

end Sys2Proof.Laws.EncodesItsRow
end

