-- ==== Sys2Proof/Laws/Records.lean ====
section
/-! SUPPORT. The operand readers undo the operand writers (log entry 2). -/

namespace Sys2Proof.Laws

open Sys2Proof

/-- A two-byte field is read back. -/
theorem takeField2_toList (f : Field2) (tail : List Byte) : takeField2 (f.toList ++ tail) = .ok (f, tail) := rfl

/-- A byte sequence is read back, whatever stands behind it. -/
theorem takeSeq_encodeSeq (data tail : List Byte) : takeSeq (encodeSeq data ++ tail) = .ok (data, tail) := by
  induction data with
  | nil => cases tail <;> simp [encodeSeq, takeSeq]
  | cons b data ih => simp [encodeSeq, takeSeq, ih]

/-- A requester number is read back, whatever stands behind it. -/
theorem takeCount_encodeCount (n : Nat) (tail : List Byte) : takeCount (encodeCount n ++ tail) = .ok (n, tail) := by
  induction n with
  | zero => simp [encodeCount, takeCount]
  | succ n ih => simp [encodeCount, takeCount, ih]

end Sys2Proof.Laws
end

