-- ==== Sys2Proof/Tests/Slice0.lean ====
section
/-! SUPPORT. Tests: words written out from the encodings of the spec, vectors of 95_test_vectors.md
(`MAX_DATA = 8`, `NREQ = 4` as there), and for every statement a witness of its hypotheses, each clause
at a boundary value. -/

namespace Sys2Proof.Tests

open Sys2Proof Sys2Proof.Machine

/-! ## Helpers -/

/-- The next state of an outcome, if it has one. -/
def nxt (o : Host.Outcome State Fault Refusal) : Option State :=
  match o with
  | .next s => some s
  | .fault _ => none
  | .refused _ => none

/-- The reason of a refusal, if it is one. -/
def stop (o : Host.Outcome State Fault Refusal) : Option Refusal :=
  match o with
  | .next _ => none
  | .fault _ => none
  | .refused r => some r

/-- What the decoder reads from a record. -/
def row (fmt : Format) (bytes : List Byte) : Option Instr :=
  match decodeRecord fmt bytes with
  | .ok (i, _) => some i
  | .error _ => none

/-- The characters of the pairs used below (R91). -/
def mc : Field2 := { b0 := 0x4D#8, b1 := 0x43#8 }
def dc : Field2 := { b0 := 0x44#8, b1 := 0x43#8 }
def rq : Field2 := { b0 := 0x52#8, b1 := 0x51#8 }
def id' : Field2 := { b0 := 0x49#8, b1 := 0x44#8 }
def wp : Field2 := { b0 := 0x57#8, b1 := 0x50#8 }

/-- Eight and nine DATA bytes, at and beyond `MAX_DATA = 8`. -/
def eight : List Byte := [0x31#8, 0x32#8, 0x33#8, 0x34#8, 0x35#8, 0x36#8, 0x37#8, 0x38#8]
def nine : List Byte := eight ++ [0x39#8]

/-- `MAX_DATA = 8`, `NREQ = 4`, after reset. -/
def m8 : State := { State.reset with params := { maxData := 8, nreq := 4 } }

/-- The same with the link Open. -/
def open8 : State := { m8 with link := .opened }

/-- A receiver that holds these bytes. -/
def rx (a : List Byte) : State := { open8 with acc := a }

/-- The request of V-ARB-10, and one without DATA. -/
def reqDc : Request := { r := 0, cmd := mc, sub := dc, data := [0x4F#8] }
def reqId : Request := { r := 1, cmd := rq, sub := id', data := [] }

/-- A write of `reqDc` in progress. -/
def busy (idx : Nat) (lrc : Byte) : State := { open8 with cur := some { req := reqDc, idx := idx }, lrcTx := lrc }

/-- The next event on the schedule is this row. -/
def sched (i : Instr) (s : State) : State := { s with env := [.record i.format (encode i)] }

/-- A call of `execute` of the host. -/
def call : Call := { caller := 7, cmd := mc, sub := dc, data := [0x4F#8], timeout := 5, maxAttempts := 2 }
def pend (attempt : Nat) : Pending := { call := call, attempt := attempt, submitted := 0 }

/-- `<MC/DC:"O">`, R98. -/
def frameO : List Byte := [0x02#8, 0x4D#8, 0x43#8, 0x44#8, 0x43#8, 0x4F#8, 0x03#8, 0x45#8]

/-! ## WellFormed: an ill-formed term for each check (R84: OTHER is no marker) -/

theorem test_wf_other_stx_refused : Instr.wf (.other 0x02#8) = false := by decide
theorem test_wf_other_etx_refused : Instr.wf (.other 0x03#8) = false := by decide
theorem test_wf_other_accepted : Instr.wf (.other 0x04#8) = true ∧ Instr.wf (.other 0xFF#8) = true := by decide

/-! ## Decoding: the OPX of R96, the bytes of R84, R90 and R80 -/

theorem test_decode_lrcClr : row .op5 [0b00000#8] = some .lrcClr := by decide
theorem test_decode_lrcUpd : row .op5 [0b00001#8, 0x4D#8] = some (.lrcUpd 0x4D#8) := by decide
theorem test_decode_lrcRd : row .op5 [0b00010#8] = some .lrcRd := by decide
theorem test_decode_enc :
    row .op5 [0b00011#8, 0x4D#8, 0x43#8, 0x44#8, 0x43#8, 0x01#8, 0x4F#8, 0x00#8] = some (.enc mc dc [0x4F#8]) := by
  decide
theorem test_decode_txEmit : row .op5 [0b00100#8] = some .txEmit := by decide
theorem test_decode_dec : row .op5 [0b00101#8, 0x01#8, 0x02#8, 0x00#8] = some (.dec [0x02#8]) := by decide
theorem test_decode_rxPush : row .op5 [0b00110#8, 0xFF#8] = some (.rxPush 0xFF#8) := by decide
theorem test_decode_accStep : row .op5 [0b00111#8] = some .accStep := by decide
theorem test_decode_linkOpen :
    row .op5 [0b01000#8, 0x01#8] = some (.linkOpen true) ∧
    row .op5 [0b01000#8, 0x00#8] = some (.linkOpen false) ∧ row .op5 [0b01000#8, 0x02#8] = none := by decide
theorem test_decode_linkClose : row .op5 [0b01001#8] = some .linkClose := by decide
theorem test_decode_linkTerr : row .op5 [0b01010#8] = some .linkTerr := by decide
theorem test_decode_wrReq :
    row .op5 [0b01011#8, 0x01#8, 0x00#8, 0x52#8, 0x51#8, 0x49#8, 0x44#8, 0x00#8] = some (.wrReq 1 rq id' []) := by
  decide
theorem test_decode_wrGrant : row .op5 [0b01100#8] = some .wrGrant := by decide
theorem test_decode_wrDone : row .op5 [0b01101#8] = some .wrDone := by decide
theorem test_decode_unused_opx :
    row .op5 [0b01110#8] = none ∧ row .op5 [0b11111#8] = none ∧ row .op5 [0b100000#8] = none := by decide
theorem test_decode_stx : row .byte8 [0b00000010#8] = some .stx := by decide
theorem test_decode_etx : row .byte8 [0b00000011#8] = some .etx := by decide
theorem test_decode_other :
    row .byte8 [0b00000000#8] = some (.other 0x00#8) ∧ row .byte8 [0b11111111#8] = some (.other 0xFF#8) := by decide
theorem test_decode_hdrMcDc : decodeTableWord 40 0x024D434443 = some .hdrMcDc := by decide
theorem test_decode_hdrRqId : decodeTableWord 40 0x0252514944 = some .hdrRqId := by decide
theorem test_decode_hdrRqIw : decodeTableWord 40 0x0252514957 = some .hdrRqIw := by decide
theorem test_decode_hdrMcLz : decodeTableWord 40 0x024D434C5A = some .hdrMcLz := by decide
theorem test_decode_hdrRqMi : decodeTableWord 40 0x0252514D49 = some .hdrRqMi := by decide
theorem test_decode_hdrRqEr : decodeTableWord 40 0x0252514552 = some .hdrRqEr := by decide
theorem test_decode_hdrMcEz : decodeTableWord 40 0x024D43455A = some .hdrMcEz := by decide
theorem test_decode_hdrMcWp : decodeTableWord 40 0x024D435750 = some .hdrMcWp := by decide
theorem test_decode_hdrMcPd : decodeTableWord 40 0x024D435044 = some .hdrMcPd := by decide
theorem test_decode_hdrMcRt : decodeTableWord 40 0x024D435254 = some .hdrMcRt := by decide
theorem test_decode_unlisted_header : decodeTableWord 40 0x024D434444 = none := by decide
theorem test_decode_frameL0 : decodeTableWord 56 0x024D434443030A = some (.frameL0 mc dc 0x0A#8) := by decide
theorem test_decode_frameL1 : decodeTableWord 64 0x024D4344434F0345 = some (.frameL1 mc dc 0x4F#8 0x45#8) := by
  decide
theorem test_decode_no_frame : decodeTableWord 64 0x024D434443034F45 = none := by decide

/-! ## Vectors of 95_test_vectors.md and examples of the rules -/

/-- R112 example, R113 example, R114. -/
theorem test_lrc_unit :
    (nxt (exec .lrcClr { m8 with lrc := 0x45#8 })).map State.lrc = some 0x00#8 ∧
    (nxt (exec (.lrcUpd 0x03#8) { m8 with lrc := 0x46#8 })).map State.lrc = some 0x45#8 ∧
    (nxt (exec .lrcRd { m8 with lrc := 0x45#8 })).map State.result = some (some (.byte 0x45#8)) := by decide

/-- R117 L6 example: `LRC("DC") = LRC("WP") = 0x07`. -/
theorem test_lrc_collision : lrcOf dc.toList = 0x07#8 ∧ lrcOf wp.toList = 0x07#8 := by decide

/-- R120 example; FrameTooLarge at `MAX_DATA + 1`. -/
theorem test_enc :
    (nxt (exec (.enc mc dc [0x4F#8]) m8)).map State.result = some (some (.bytes frameO)) ∧
    (nxt (exec (.enc mc dc nine) m8)).map State.result = some (some (.status .frameTooLarge)) := by decide

/-- V-ENC-30, V-ENC-35, V-ENC-36, V-ENC-37: byte, register, index. -/
theorem test_txEmit :
    (nxt (exec .txEmit (busy 0 0x00#8))).map (fun t => (t.txLog, t.lrcTx)) = some ([0x02#8], 0x00#8) ∧
    (nxt (exec .txEmit (busy 5 0x09#8))).map (fun t => (t.txLog, t.lrcTx)) = some ([0x4F#8], 0x46#8) ∧
    (nxt (exec .txEmit (busy 6 0x46#8))).map (fun t => (t.txLog, t.lrcTx)) = some ([0x03#8], 0x45#8) ∧
    (nxt (exec .txEmit (busy 7 0x45#8))).map (fun t => (t.txLog, t.lrcTx)) = some ([0x45#8], 0x45#8) := by decide

/-- V-DEC-6, V-DEC-8, V-DEC-5, V-DEC-23. -/
theorem test_dec :
    frameDecode 8 frameO = .frame mc dc [0x4F#8] 8 ∧
    frameDecode 8 [0x02#8, 0x4D#8, 0x43#8, 0x44#8, 0x43#8, 0x4F#8, 0x03#8, 0x44#8] = .checksumError 8 ∧
    frameDecode 8 (frameO.take 7) = .needMoreBytes ∧
    frameDecode 8 [0xFF#8, 0x00#8, 0x02#8, 0x4D#8] = .invalid 2 := by decide

/-- V-DEC-15, V-DEC-17, V-DEC-20, V-DEC-28. -/
theorem test_dec_markers :
    frameDecode 8 [0x02#8, 0x02#8, 0x03#8, 0x03#8, 0x02#8, 0x03#8, 0x03#8] =
      .frame { b0 := 0x02#8, b1 := 0x03#8 } { b0 := 0x03#8, b1 := 0x02#8 } [] 7 ∧
    frameDecode 8 [0x02#8, 0x4D#8, 0x43#8, 0x57#8, 0x50#8, 0x41#8, 0x03#8, 0x42#8, 0x03#8, 0x0A#8] =
      .checksumError 8 ∧
    frameDecode 8 [0x02#8, 0x4D#8, 0x43#8, 0x44#8, 0x43#8, 0x31#8, 0x32#8, 0x02#8, 0x34#8, 0x35#8, 0x36#8,
      0x37#8, 0x38#8, 0x39#8] = .invalid 7 := by decide

/-- R155 example. -/
theorem test_rxPush :
    (nxt (exec (.rxPush 0x44#8) (rx [0x02#8, 0x4D#8, 0x43#8]))).map State.acc =
      some [0x02#8, 0x4D#8, 0x43#8, 0x44#8] := by decide

/-- R157 example: garbage first, then the frame. -/
theorem test_accStep :
    (nxt (exec .accStep (rx (0xFF#8 :: frameO)))).map (fun t => (t.acc, t.diagLog)) =
      some (frameO, [.invalidDiscard 1]) ∧
    (nxt (exec .accStep (rx frameO))).map (fun t => (t.acc, t.frameLog)) =
      some ([], [{ cmd := mc, sub := dc, data := [0x4F#8] }]) := by decide

/-- V-ARB-1, V-ARB-2, V-ARB-3. -/
theorem test_linkOpen :
    (nxt (exec (.linkOpen true) m8)).map (fun t => (t.link, t.result)) =
      some (.opened, some (.status (.ok none))) ∧
    (nxt (exec (.linkOpen false) m8)).map (fun t => (t.link, t.result)) =
      some (.closed, some (.status .connectionError)) ∧
    (nxt (exec (.linkOpen true) (busy 3 0x0E#8))).map (fun t => (t.cur, t.result)) =
      some (some { req := reqDc, idx := 3 }, some (.status .connectionError)) := by decide

/-- V-ARB-5: the writer first, then the queue; `lrc_tx` is kept. -/
theorem test_linkClose :
    (nxt (exec .linkClose { open8 with
      cur := some { req := reqId, idx := 3 }, wq := [reqDc], acc := [0x02#8, 0x4D#8], lrcTx := 0x03#8 })).map
      (fun t => (t.link, t.doneLog, t.acc, t.lrcTx)) =
      some (.closed, [(1, .linkClosed), (0, .linkClosed)], [], 0x03#8) := by decide

/-- V-ARB-7. -/
theorem test_linkTerr :
    (nxt (exec .linkTerr { busy 6 0x46#8 with wq := [reqId], acc := [0x02#8, 0x4D#8, 0x43#8] })).map
      (fun t => (t.link, t.doneLog, t.diagLog, t.acc)) =
      some (.closed, [(0, .transportError), (1, .linkClosed)], [.transportFailure], []) := by decide

/-- V-ARB-10, V-ARB-12, V-ARB-13. -/
theorem test_wrReq :
    (nxt (exec (.wrReq 0 mc dc [0x4F#8]) open8)).map State.wq = some [reqDc] ∧
    (nxt (exec (.wrReq 0 mc dc [0x4F#8]) m8)).map State.doneLog = some [(0, .linkClosed)] ∧
    (nxt (exec (.wrReq 3 mc dc nine) m8)).map State.doneLog = some [(3, .frameTooLarge)] := by decide

/-- V-ARB-18. -/
theorem test_wrReq_outstanding :
    stop (exec (.wrReq 0 mc dc []) { open8 with wq := [reqDc] }) = some (.requesterOutstanding 0) := by decide

/-- V-ARB-14, V-ARB-15. -/
theorem test_wrGrant :
    (nxt (exec .wrGrant { open8 with wq := [reqId, reqDc], lrcTx := 0x45#8 })).map
      (fun t => (t.wq, t.cur, t.lrcTx)) = some ([reqDc], some { req := reqId, idx := 0 }, 0x00#8) ∧
    stop (exec .wrGrant { busy 4 0x4A#8 with wq := [reqId] }) = some (.notEnabled .writeInProgress) := by decide

/-- V-ARB-16, V-ARB-17. -/
theorem test_wrDone :
    (nxt (exec .wrDone (busy 8 0x45#8))).map (fun t => (t.doneLog, t.cur)) = some ([(0, .ok (some 8))], none) ∧
    stop (exec .wrDone (busy 7 0x45#8)) = some (.notEnabled .frameNotAllEmitted) := by decide

/-- R84: STX starts a candidate, ETX and OTHER before one are garbage (V-ACC-13). -/
theorem test_bytes :
    (nxt (exec .stx open8)).map State.acc = some [0x02#8] ∧
    (nxt (exec .etx open8)).map State.diagLog = some [.invalidDiscard 1] ∧
    (nxt (exec (.other 0xFF#8) open8)).map State.diagLog = some [.invalidDiscard 1] := by decide

/-- R90: the header bytes of five of the ten pairs. -/
theorem test_headers_control :
    (nxt (exec .hdrMcDc open8)).map State.acc = some [0x02#8, 0x4D#8, 0x43#8, 0x44#8, 0x43#8] ∧
    (nxt (exec .hdrMcLz open8)).map State.acc = some [0x02#8, 0x4D#8, 0x43#8, 0x4C#8, 0x5A#8] ∧
    (nxt (exec .hdrMcEz open8)).map State.acc = some [0x02#8, 0x4D#8, 0x43#8, 0x45#8, 0x5A#8] ∧
    (nxt (exec .hdrMcWp open8)).map State.acc = some [0x02#8, 0x4D#8, 0x43#8, 0x57#8, 0x50#8] ∧
    (nxt (exec .hdrMcPd open8)).map State.acc = some [0x02#8, 0x4D#8, 0x43#8, 0x50#8, 0x44#8] := by decide

/-- R90: the other five. -/
theorem test_headers_rest :
    (nxt (exec .hdrMcRt open8)).map State.acc = some [0x02#8, 0x4D#8, 0x43#8, 0x52#8, 0x54#8] ∧
    (nxt (exec .hdrRqId open8)).map State.acc = some [0x02#8, 0x52#8, 0x51#8, 0x49#8, 0x44#8] ∧
    (nxt (exec .hdrRqIw open8)).map State.acc = some [0x02#8, 0x52#8, 0x51#8, 0x49#8, 0x57#8] ∧
    (nxt (exec .hdrRqMi open8)).map State.acc = some [0x02#8, 0x52#8, 0x51#8, 0x4D#8, 0x49#8] ∧
    (nxt (exec .hdrRqEr open8)).map State.acc = some [0x02#8, 0x52#8, 0x51#8, 0x45#8, 0x52#8] := by decide

/-- V-DEC-10, V-DEC-11 and V-DEC-6 as received frames. -/
theorem test_frames :
    (nxt (exec (.frameL0 mc dc 0x0A#8) open8)).map State.frameLog = some [{ cmd := mc, sub := dc, data := [] }] ∧
    (nxt (exec (.frameL0 mc dc 0x0B#8) open8)).map State.diagLog = some [.checksumDiscard 7] ∧
    (nxt (exec (.frameL1 mc dc 0x4F#8 0x45#8) open8)).map State.frameLog =
      some [{ cmd := mc, sub := dc, data := [0x4F#8] }] := by decide

/-- V-ARB-19: RESET in the middle of a write. -/
theorem test_reset_pin :
    (nxt (step { busy 4 0x4A#8 with env := [.resetPin], txLog := frameO.take 4 })).map
      (fun t => (t.link, t.cur, t.lrcTx, t.txLog)) =
      some (.closed, none, 0x00#8, [0x02#8, 0x4D#8, 0x43#8, 0x44#8]) := by decide

/-- The first step after reset runs a placed table word (R282: LINK.CLOSE is enabled, TX.EMIT is not). -/
theorem test_first_step :
    (nxt (step (State.reset.withFetchWord 8 0x09))).isSome = true ∧
    stop (step (State.reset.withFetchWord 8 0x04)) = some (.notEnabled .linkIsClosed) := by decide

/-! ## Witnesses: the hypotheses of the statements, each clause at a boundary -/

/-- An invariant state with a write in progress, a queue at its last port and a partial candidate. -/
def full : State :=
  { busy 6 0x46#8 with wq := [{ reqId with r := 3 }], acc := [0x02#8, 0x4D#8] }

theorem full_inv : Invariants full where
  distinct := by decide
  ports := by decide
  closedEmpty := by decide
  accBound := by decide
  accQuiet := by decide
  queuedData := by decide
  writing := by
    intro a h
    cases h
    decide
  accStart := by decide
  statuses := by
    intro c h
    cases h

theorem closed_inv : Invariants m8 where
  distinct := by decide
  ports := by decide
  closedEmpty := by decide
  accBound := by decide
  accQuiet := by decide
  queuedData := by decide
  writing := by
    intro a h
    cases h
  accStart := by decide
  statuses := by
    intro c h
    cases h

/-- O1, O5. -/
theorem witness_lrc :
    (lrcOf [0x4D#8]).getLsbD 0 = true ∧ (lrcOf [0x4D#8]).getLsbD 7 = false ∧
    [0x44#8, 0x43#8].Perm [0x43#8, 0x44#8] ∧ dc.toList.length = wp.toList.length ∧
    lrcOf dc.toList = lrcOf wp.toList ∧ (0x00#8 : Byte) ≠ 0x01#8 := by decide

/-- O8: no DATA, and `MAX_DATA` bytes of it. -/
theorem witness_encode :
    frameEncode 8 mc dc [] = some [0x02#8, 0x4D#8, 0x43#8, 0x44#8, 0x43#8, 0x03#8, 0x0A#8] ∧
    (frameEncode 8 mc dc eight).isSome = true ∧ frameEncode 8 mc dc nine = none := by decide

/-- O9: every boundary of the index for `L = 1`, the end for `L = 0`, and the three refusals. -/
theorem witness_txEmit :
    (nxt (exec .txEmit (busy 1 0x00#8))).map State.txLog = some [0x4D#8] ∧
    (nxt (exec .txEmit (busy 2 0x4D#8))).map State.txLog = some [0x43#8] ∧
    (nxt (exec .txEmit (busy 3 0x0E#8))).map State.txLog = some [0x44#8] ∧
    (nxt (exec .txEmit (busy 4 0x4A#8))).map State.txLog = some [0x43#8] ∧
    (nxt (exec .txEmit { open8 with cur := some { req := reqId, idx := 5 } })).map State.txLog = some [0x03#8] ∧
    (nxt (exec .txEmit { open8 with cur := some { req := reqId, idx := 6 }, lrcTx := 0x0D#8 })).map State.txLog =
      some [0x0D#8] ∧
    stop (exec .txEmit (busy 8 0x45#8)) = some (.notEnabled .frameAllEmitted) ∧
    stop (exec .txEmit m8) = some (.notEnabled .linkIsClosed) ∧
    stop (exec .txEmit open8) = some (.notEnabled .noWriteInProgress) := by decide

/-- O10. -/
theorem witness_txEmit_inv :
    Invariants full ∧ full.cur = some { req := reqDc, idx := 6 } ∧ (nxt (exec .txEmit full)).isSome = true :=
  ⟨full_inv, by decide, by decide⟩

/-- O11. -/
theorem witness_uninterrupted :
    ({ open8 with wq := [reqDc] } : State).link = .opened ∧ ({ open8 with wq := [reqDc] } : State).cur = none ∧
    frameEncode open8.params.maxData reqDc.cmd reqDc.sub reqDc.data = some frameO := by decide

/-- O13: the three situations at their longest, and one byte more. -/
theorem witness_needMoreBytes :
    frameDecode 8 [] = .needMoreBytes ∧
    frameDecode 8 ([0x02#8, 0x4D#8, 0x43#8, 0x44#8, 0x43#8] ++ eight) = .needMoreBytes ∧
    frameDecode 8 ([0x02#8, 0x4D#8, 0x43#8, 0x44#8, 0x43#8] ++ eight ++ [0x03#8]) = .needMoreBytes ∧
    frameDecode 8 ([0x02#8, 0x4D#8, 0x43#8, 0x44#8, 0x43#8] ++ nine) = .invalid 14 := by decide

/-- O14, O15: nothing behind, and STX behind; `MAX_DATA = 0` and STX inside the failed candidate. -/
theorem witness_invalid :
    (0x02#8 : Byte) ∉ [0xFF#8] ∧ frameDecode 8 [0xFF#8] = .invalid 1 ∧ frameDecode 8 [0x00#8, 0x02#8] = .invalid 1 ∧
    frameDecode 0 [0x02#8, 0x4D#8, 0x43#8, 0x44#8, 0x43#8, 0x4F#8] = .invalid 6 ∧
    frameDecode 0 [0x02#8, 0x02#8, 0x43#8, 0x44#8, 0x43#8, 0x4F#8] = .invalid 1 := by decide

/-- O16: `MAX_DATA` DATA bytes, the checksum right and wrong. -/
theorem witness_candidate :
    eight.length ≤ 8 ∧ (0x03#8 : Byte) ∉ eight ∧
    frameDecode 8 ([0x02#8, 0x52#8, 0x51#8, 0x49#8, 0x57#8] ++ eight ++ [0x03#8, 0x16#8]) =
      .frame rq { b0 := 0x49#8, b1 := 0x57#8 } eight 15 ∧
    frameDecode 8 ([0x02#8, 0x52#8, 0x51#8, 0x49#8, 0x57#8] ++ eight ++ [0x03#8, 0x17#8]) = .checksumError 15 := by
  decide

/-- O17, O20: each outcome, alone and with bytes behind it. -/
theorem witness_extension :
    frameDecode 8 (frameO ++ [0x45#8]) = .frame mc dc [0x4F#8] 8 ∧
    frameDecode 8 [0x02#8, 0x4D#8, 0x43#8, 0x44#8, 0x43#8, 0x03#8, 0x0B#8] = .checksumError 7 ∧
    frameDecode 8 ([0x00#8, 0x02#8] ++ [0x00#8]) = .invalid 1 ∧
    frameDecode 8 [0xFF#8] = .invalid 1 ∧ frameDecode 8 ([0xFF#8] ++ [0x00#8]) = .invalid 2 := by decide

/-- O18, O19: the longest DATA; ETX as the first DATA byte (V-DEC-36). -/
theorem witness_roundTrip :
    (frameEncode 8 mc dc eight).isSome = true ∧ (0x03#8 : Byte) ∉ eight ∧
    (frameEncode 8 mc dc ([] ++ [0x03#8] ++ [0x0A#8])).isSome = true := by decide

/-- O21: a flip in the command, in DATA (V-DEC-34) and in the LRC byte (V-DEC-41). -/
theorem witness_flip_detected :
    frameEncode 8 mc dc [0x4F#8] = some frameO ∧ (0x03#8 : Byte) ∉ [0x4F#8] ∧
    frameO[1]? = some 0x4D#8 ∧ frameDecode 8 (frameO.set 1 0x4C#8) = .checksumError 8 ∧
    frameO[5]? = some 0x4F#8 ∧ 0x4F#8 ^^^ BitVec.twoPow 8 7 ≠ 0x03#8 ∧
    frameDecode 8 (frameO.set 5 0xCF#8) = .checksumError 8 ∧
    frameO[7]? = some 0x45#8 ∧ frameDecode 8 (frameO.set 7 0xC5#8) = .checksumError 8 := by decide

/-- O22: DATA becomes ETX (V-DEC-35), ETX destroyed (V-DEC-38), STX destroyed (V-DEC-42). -/
theorem witness_flip_marker :
    frameEncode 8 mc dc [0x01#8, 0x55#8] =
      some [0x02#8, 0x4D#8, 0x43#8, 0x44#8, 0x43#8, 0x01#8, 0x55#8, 0x03#8, 0x5E#8] ∧
    0x01#8 ^^^ BitVec.twoPow 8 1 = 0x03#8 ∧
    frameDecode 8 [0x02#8, 0x4D#8, 0x43#8, 0x44#8, 0x43#8, 0x03#8, 0x55#8, 0x03#8, 0x5E#8] = .checksumError 7 ∧
    frameO[6]? = some 0x03#8 ∧ frameDecode 8 (frameO.set 6 0x07#8) = .needMoreBytes ∧
    frameO[0]? = some 0x02#8 ∧ frameDecode 8 (frameO.set 0 0x03#8) = .invalid 8 := by decide

/-- O23: the fullest quiescent accumulator, and the two refusals. -/
theorem witness_rxPush :
    (nxt (exec (.rxPush 0x16#8) (rx ([0x02#8, 0x52#8, 0x51#8, 0x49#8, 0x57#8] ++ eight ++ [0x03#8])))).isSome = true ∧
    stop (exec (.rxPush 0x02#8) m8) = some (.notEnabled .linkIsClosed) ∧
    stop (exec (.rxPush 0x02#8) (rx [0xFF#8])) = some (.notEnabled .notQuiescent) := by decide

/-- O24, O25: each outcome, and the two refusals. -/
theorem witness_accStep :
    (nxt (exec .accStep (rx [0x02#8, 0x4D#8, 0x43#8, 0x44#8, 0x43#8, 0x03#8, 0x0A#8]))).map State.acc = some [] ∧
    (nxt (exec .accStep (rx [0x02#8, 0x4D#8, 0x43#8, 0x44#8, 0x43#8, 0x03#8, 0x0B#8]))).map State.diagLog =
      some [.checksumDiscard 7] ∧
    (nxt (exec .accStep (rx [0xFF#8]))).map State.diagLog = some [.invalidDiscard 1] ∧
    stop (exec .accStep (rx [0x02#8])) = some (.notEnabled .quiescent) ∧
    stop (exec .accStep m8) = some (.notEnabled .linkIsClosed) ∧ quiescent (rx [0x02#8]) = true := by decide

/-- O26: each class, and each position at its edge. -/
theorem witness_byteClass :
    (nxt (exec .stx open8)).map State.acc = some [0x02#8] ∧
    (nxt (exec (.other 0x04#8) open8)).map State.diagLog = some [.invalidDiscard 1] ∧
    (nxt (exec .etx (rx [0x02#8, 0x03#8, 0x03#8, 0x03#8]))).map (fun t => t.acc.length) = some 5 ∧
    (nxt (exec (.other 0x38#8) (rx ([0x02#8, 0x03#8, 0x03#8, 0x03#8, 0x03#8] ++ eight.take 7)))).map
      (fun t => t.acc.length) = some 13 ∧
    (nxt (exec .etx (rx ([0x02#8, 0x03#8, 0x03#8, 0x03#8, 0x03#8] ++ eight)))).map
      (fun t => t.acc.length) = some 14 := by decide

/-- O26, the LRC byte: the three classes as right checksums, and a wrong one. -/
theorem witness_byteClass_lrc :
    (nxt (exec (.other 0x45#8) (rx (frameO.take 7)))).map (fun t => t.frameLog.length) = some 1 ∧
    (nxt (exec .etx (rx [0x02#8, 0x4D#8, 0x43#8, 0x44#8, 0x43#8, 0x09#8, 0x03#8]))).map
      (fun t => t.frameLog.length) = some 1 ∧
    (nxt (exec .stx (rx [0x02#8, 0x4D#8, 0x43#8, 0x44#8, 0x43#8, 0x08#8, 0x03#8]))).map
      (fun t => t.frameLog.length) = some 1 ∧
    (nxt (exec .stx (rx (frameO.take 7)))).map State.diagLog = some [.checksumDiscard 8] := by decide

/-- O27: an open link with something still to decode, and a closed one. -/
theorem witness_wire :
    (rx [0xFF#8]).link = .opened ∧
    (nxt (exec .stx (rx [0xFF#8]))).map (fun t => (t.acc, t.diagLog)) = some ([0x02#8], [.invalidDiscard 1]) ∧
    Instr.stx.format ≠ .op5 ∧ m8.link = .closed ∧ (nxt (exec .stx m8)).map State.rxLog = some [] := by decide

/-- O28: `MAX_DATA = 1` is enough; a right and a wrong last byte. -/
theorem witness_frames :
    open8.link = .opened ∧ open8.acc = [] ∧
    (nxt (exec (.frameL1 mc dc 0x4F#8 0x45#8) { open8 with params := { maxData := 1, nreq := 1 } })).map
      (fun t => t.frameLog.length) = some 1 ∧
    (nxt (exec (.frameL1 mc dc 0x4F#8 0x44#8) open8)).map State.diagLog = some [.checksumDiscard 8] := by decide

/-- O30: `FF`, a frame, `AA 03 55`, a frame, `99` (V-ACC-2). -/
theorem witness_resynchronise :
    (0x02#8 : Byte) ∉ [0xFF#8] ∧ (0x02#8 : Byte) ∉ [0xAA#8, 0x03#8, 0x55#8] ∧ (0x02#8 : Byte) ∉ [0x99#8] ∧
    (0x03#8 : Byte) ∉ reqDc.data ∧ frameEncode 8 mc dc [0x4F#8] = some frameO ∧
    (frameEncode 8 rq id' []).isSome = true := by decide

/-- O32, O33: closed; open with and without a write in progress. -/
theorem witness_closure :
    (nxt (exec .linkClose m8)).map State.doneLog = some [] ∧
    (nxt (exec .linkClose { open8 with wq := [reqDc] })).map State.doneLog = some [(0, .linkClosed)] ∧
    (nxt (exec .linkClose full)).map State.doneLog = some [(0, .linkClosed), (3, .linkClosed)] ∧
    stop (exec .linkTerr m8) = some (.notEnabled .linkIsClosed) ∧
    (nxt (exec .linkTerr open8)).map State.diagLog = some [.transportFailure] ∧
    (nxt (exec .linkTerr full)).map State.doneLog = some [(0, .transportError), (3, .linkClosed)] := by decide

/-- O34: the last port and the first that does not exist; the longest DATA and one byte more. -/
theorem witness_wrReq :
    (nxt (exec (.wrReq 3 mc dc eight) open8)).map (fun t => t.wq.length) = some 1 ∧
    (nxt (exec (.wrReq 3 mc dc nine) open8)).map State.doneLog = some [(3, .frameTooLarge)] ∧
    (nxt (exec (.wrReq 3 mc dc eight) m8)).map State.doneLog = some [(3, .linkClosed)] ∧
    stop (exec (.wrReq 3 mc dc []) full) = some (.requesterOutstanding 3) ∧
    stop (exec (.wrReq 4 mc dc []) open8) = some (.noSuchRequester 4) := by decide

/-- O35, O36: where WR.GRANT and WR.DONE are enabled, and each refusal. -/
theorem witness_grant_done :
    (nxt (exec .wrGrant { open8 with wq := [reqDc] })).map State.wq = some [] ∧
    stop (exec .wrGrant m8) = some (.notEnabled .linkIsClosed) ∧
    stop (exec .wrGrant full) = some (.notEnabled .writeInProgress) ∧
    stop (exec .wrGrant open8) = some (.notEnabled .queueEmpty) ∧
    (nxt (exec .wrDone { open8 with cur := some { req := reqId, idx := 7 } })).map State.doneLog =
      some [(1, .ok (some 7))] ∧
    stop (exec .wrDone { open8 with cur := some { req := reqId, idx := 6 } }) =
      some (.notEnabled .frameNotAllEmitted) ∧
    stop (exec .wrDone open8) = some (.notEnabled .noWriteInProgress) := by decide

/-- O37 to O43: instructions that answer a next state, from invariant states. -/
theorem witness_next :
    Invariants full ∧ Invariants m8 ∧
    (nxt (exec (.linkOpen true) m8)).map controlState = some .idle ∧
    (nxt (exec .linkClose full)).map controlState = some .closed ∧
    (nxt (exec (.wrReq 1 mc dc []) full)).map (fun t => t.wq.length) = some 2 ∧
    (nxt (exec .txEmit full)).map (fun t => t.cur.map Active.idx) = some (some 7) ∧
    (nxt (exec (.rxPush 0x43#8) full)).isSome = true ∧ (nxt (exec .lrcRd full)).isSome = true :=
  ⟨full_inv, closed_inv, by decide, by decide, by decide, by decide, by decide, by decide⟩

/-- O38, O42: the closed link, and a queue with a request before another. -/
theorem witness_closed_and_ports :
    m8.link = .closed ∧ (nxt (exec .lrcClr m8)).isSome = true ∧ stop (exec .wrDone m8) ≠ none ∧
    outstanding full = [0] ++ 3 :: [] ∧ (outstanding full).length ≤ full.params.nreq := by decide

/-- O47, O48: the next event is the reset pin, an enabled record, a disabled record. -/
theorem witness_step :
    (nxt (step { m8 with env := [.resetPin] })).isSome = true ∧
    Instr.wf (.linkOpen true) = true ∧ row .op5 [0x08#8, 0x01#8] = some (.linkOpen true) ∧
    (nxt (step (sched (.linkOpen true) m8))).map State.link = some .opened ∧
    stop (step (sched .txEmit m8)) = some (.notEnabled .linkIsClosed) := by decide

/-- O49: a law of draws that draws LINK.OPEN, which happens, and then WR.DONE, which is not enabled. -/
theorem witness_draws :
    let draw : Nat → Event := fun n => .record .op5 (if n = 0 then [0x08#8, 0x01#8] else [0x0D#8])
    m8.env = [] ∧ (nxt (runEvent (draw 0) { m8 with draws := 1 })).map State.link = some .opened ∧
    stop (runEvent (draw 1) { m8 with draws := 2 }) = some (.notEnabled .noWriteInProgress) ∧
    nxt (stepWith draw { m8 with draws := 1 }) = some { m8 with draws := 2 } := by decide

/-- O51, O52: a step from an invariant state. -/
theorem witness_invariant_step :
    Invariants { full with env := [.resetPin] } ∧
    (nxt (step { full with env := [.resetPin] })).isSome = true :=
  ⟨{ full_inv with }, by decide⟩

/-- O53, O54: the largest operands of each shape. -/
theorem witness_records :
    Instr.wf (.wrReq 3 mc dc eight) = true ∧
    row .op5 (encode (.wrReq 3 mc dc eight) ++ [0xFF#8]) = some (.wrReq 3 mc dc eight) ∧
    Instr.wf (.other 0x01#8) = true ∧ row .byte8 [0x01#8, 0x02#8] = some (.other 0x01#8) := by decide

/-- A host with one attempt in flight, another caller waiting, and the first inside its scope. -/
def hosting : State :=
  { open8 with
    host := { HostState.reset with
      pending := some (pend 1), waiters := [{ call := { call with caller := 8 }, made := 0 }], scopes := [7] } }

theorem hosting_inv : HostInvariants hosting where
  closedReleased := by decide
  callersDistinct := by decide
  fits := by decide
  attempt := by
    intro p h
    cases h
    decide
  attemptsLeft := by decide

theorem closed_host_inv : HostInvariants m8 where
  closedReleased := by decide
  callersDistinct := by decide
  fits := by decide
  attempt := by
    intro p h
    cases h
  attemptsLeft := by decide

/-- O56: EXECUTE of each kind, refused and not, on an open and on a closed link, and SUBMIT. -/
theorem witness_host_submit :
    (nxt (step { open8 with env := [.host (.execute call)] })).map (fun t => t.host.waiters.length) = some 1 ∧
    (nxt (step { open8 with env := [.host (.execute { call with maxAttempts := 0 })] })).map
      (fun t => t.host.calls) = some [(7, .failed (.commandTimeout 0))] ∧
    (nxt (step { open8 with env := [.host (.execute { call with data := nine })] })).map
      (fun t => t.host.calls) = some [(7, .failed .frameTooLarge)] ∧
    (nxt (step { m8 with env := [.host (.execute call)] })).map (fun t => t.host.calls) =
      some [(7, .failed .linkClosed)] ∧
    stop (step { hosting with env := [.host (.execute call)] }) = some (.notEnabled .hostCallerSuspended) ∧
    (nxt (step { open8 with env := [.host (.execute { call with data := [0x03#8] })] })).map
      (fun t => t.host.waiters.length) = some 1 ∧
    (nxt (step { m8 with env := [.host (.execute { call with data := [0x03#8] })] })).map
      (fun t => t.host.calls) = some [(7, .failed .linkClosed)] ∧
    (nxt (step { open8 with
      env := [.host .submit], host := { HostState.reset with waiters := [{ call := call, made := 0 }] } })).map
      State.wq = some [reqDc] := by decide

/-- O56: SUBMIT on a Closed link, with an attempt in flight, with nobody waiting, with the port outstanding. -/
theorem witness_host_submit_refused :
    let one : HostState := { HostState.reset with waiters := [{ call := call, made := 0 }] }
    stop (step { m8 with env := [.host .submit], host := one }) = some (.notEnabled .hostCannotSubmit) ∧
    stop (step { hosting with env := [.host .submit] }) = some (.notEnabled .hostCannotSubmit) ∧
    stop (step { open8 with env := [.host .submit] }) = some (.notEnabled .hostCannotSubmit) ∧
    stop (step { busy 6 0x46#8 with env := [.host .submit], host := one }) =
      some (.notEnabled .hostCannotSubmit) := by decide

/-- O3: `open` with the port free, by a caller outside and beside an earlier scope (P3, steps 14 to 18), not
free, and while the link is Open; by a suspended caller. -/
theorem witness_host_open :
    (nxt (step { m8 with env := [.host (.acquire 7 true)] })).map (fun t => (t.link, t.host.scopes)) =
      some (.opened, [7]) ∧
    (nxt (step { m8 with
      env := [.host (.acquire 8 true)], host := { HostState.reset with scopes := [7] } })).map
      (fun t => (t.link, t.host.scopes, t.host.opens)) = some (.opened, [8, 7], [(8, .ok none)]) ∧
    (nxt (step { m8 with env := [.host (.acquire 7 false)] })).map (fun t => (t.link, t.host.opens)) =
      some (.closed, [(7, .connectionError)]) ∧
    (nxt (step { hosting with env := [.host (.acquire 9 true)] })).map (fun t => (t.link, t.host.opens)) =
      some (.opened, [(9, .connectionError)]) ∧
    stop (step { hosting with env := [.host (.acquire 8 true)] }) =
      some (.notEnabled .hostCallerSuspended) := by decide

/-- O3: the exit by cancellation with an `execute` in flight, the exits refused, a `close` from outside any scope,
and a return with none in flight. -/
theorem witness_host_leave :
    (nxt (step { hosting with env := [.host (.leave 7 .cancellation)] })).map
      (fun t => (t.link, t.host.scopes, t.host.calls)) =
      some (.closed, [], [(7, .failed .linkClosed), (8, .failed .linkClosed)]) ∧
    stop (step { hosting with env := [.host (.leave 7 .normalReturn)] }) =
      some (.notEnabled .hostCallerSuspended) ∧
    stop (step { hosting with env := [.host (.leave 8 .cancellation)] }) =
      some (.notEnabled .hostCallerSuspended) ∧
    (nxt (step { hosting with env := [.host (.leave 9 .normalReturn)] })).map
      (fun t => (t.link, t.host.scopes)) = some (.closed, [7]) ∧
    (nxt (step { open8 with
      env := [.host (.leave 7 .normalReturn)], host := { HostState.reset with scopes := [7] } })).map
      State.link = some .closed := by decide

/-- O57: a frame just delivered, with and without a pending request. -/
theorem witness_host_deliver :
    ({ open8 with frameLog := [default] } : State).frameLog = open8.frameLog ++ [default] ∧
    open8.link = .opened ∧ open8.host.pending = none ∧
    ({ HostState.reset with pending := some (pend 1) } : HostState).pending = some (pend 1) := by decide

/-- O58: too early, the last moment of a first attempt, and the last attempt. -/
theorem witness_host_timeout :
    stop (step { open8 with
      env := [.host .timeout], host := { HostState.reset with pending := some (pend 1), clock := 4 } }) =
      some (.notEnabled .hostNotTimedOut) ∧
    (nxt (step { open8 with
      env := [.host .timeout], host := { HostState.reset with pending := some (pend 1), clock := 5 } })).map
      (fun t => t.host.waiters) = some [{ call := call, made := 1 }] ∧
    (nxt (step { open8 with
      env := [.host .timeout], host := { HostState.reset with pending := some (pend 2), clock := 5 } })).map
      (fun t => t.host.calls) = some [(7, .failed (.commandTimeout 2))] := by decide

/-- O59: a step from a state with the host's invariants; a dutiful SUBMIT from one with `0x03` kept out. -/
theorem witness_host_invariants :
    HostInvariants { hosting with env := [.host .tick] } ∧
    (nxt (step { hosting with env := [.host .tick] })).isSome = true ∧
    EtxKeptOut { hosting with host := { hosting.host with pending := none } } ∧ dutiful (.host .submit) ∧
    (nxt (runEvent (.host .submit) { hosting with host := { hosting.host with pending := none } })).isSome =
      true :=
  ⟨{ hosting_inv with }, by decide,
    { calls := by decide, queue := by decide, writing := nofun },
    ⟨nofun, nofun⟩, by decide⟩

/-- O59, O60: a closure with one caller pending and one waiting. -/
theorem witness_host_closure :
    (nxt (step { sched .linkClose open8 with
      host := { HostState.reset with pending := some (pend 1), waiters := [{ call := call, made := 0 }] } })).map
      (fun t => (t.link, t.host.calls)) =
      some (.closed, [(7, .failed .linkClosed), (7, .failed .linkClosed)]) := by decide

/-! ## A fair run (R300) -/

/-- WR.DONE first, then the host's clock for ever. -/
def doneDraw (n : Nat) : Event :=
  match n with
  | 0 => .record .op5 [0x0D#8]
  | _ + 1 => .host .tick

/-- A write with every byte out, its completion, and time going by. -/
def doneRun (n : Nat) : State :=
  match n with
  | 0 => busy 8 0x45#8
  | n + 1 =>
    { open8 with
      lrcTx := 0x45#8, doneLog := [(0, .ok (some 8))], draws := n + 1
      host := { HostState.reset with clock := n } }

theorem doneRun_start : Invariants (doneRun 0) where
  distinct := by decide
  ports := by decide
  closedEmpty := by decide
  accBound := by decide
  accQuiet := by decide
  queuedData := by decide
  writing := by
    intro a h
    cases h
    decide
  accStart := by decide
  statuses := by
    intro c h
    cases h

/-- O45: a fair run with a requester outstanding at its start. -/
theorem witness_fair_run :
    isRun doneDraw doneRun ∧ weaklyFair doneDraw doneRun ∧ Invariants (doneRun 0) ∧
    0 ∈ outstanding (doneRun 0) := by
  refine ⟨fun n => ?_, fun i hi n h => ?_, doneRun_start, by decide⟩
  · cases n <;> rfl
  · obtain ⟨t, ht⟩ := h (n + 1) (by omega)
    simp only [fairOps, List.mem_cons, List.not_mem_nil, or_false] at hi
    rcases hi with rfl | rfl | rfl | rfl <;> cases ht

/-- TIMEOUT first, then the host's clock for ever. -/
def lastDraw (n : Nat) : Event :=
  match n with
  | 0 => .host .timeout
  | _ + 1 => .host .tick

/-- The last attempt of a call, its timeout just elapsed; its answer; and time going by. -/
def lastRun (n : Nat) : State :=
  match n with
  | 0 => { open8 with host := { HostState.reset with pending := some (pend 2), clock := 5 } }
  | n + 1 =>
    { open8 with
      draws := n + 1
      host := { HostState.reset with clock := 5 + n, calls := [(7, .failed (.commandTimeout 2))] } }

theorem lastRun_start : HostInvariants (lastRun 0) where
  closedReleased := by decide
  callersDistinct := by decide
  fits := by decide
  attempt := by
    intro p h
    cases h
    decide
  attemptsLeft := by decide

/-- O6: a run fair to the block and to the host, with a caller suspended at its start. -/
theorem witness_host_fair_run :
    isRun lastDraw lastRun ∧ weaklyFair lastDraw lastRun ∧ hostFair lastDraw lastRun ∧
    hostOwnsPort lastDraw lastRun ∧ Invariants (lastRun 0) ∧ HostInvariants (lastRun 0) ∧
    0 < (lastRun 0).params.nreq ∧ 7 ∈ suspended (lastRun 0).host := by
  refine ⟨fun n => ?_, fun i hi n h => ?_, fun e he n h => ?_, fun n cmd sub data h => ?_,
    { closed_inv with closedEmpty := by decide }, lastRun_start, by decide, by decide⟩
  · cases n <;> rfl
  · obtain ⟨t, ht⟩ := h (n + 1) (by omega)
    simp only [fairOps, List.mem_cons, List.not_mem_nil, or_false] at hi
    rcases hi with rfl | rfl | rfl | rfl <;> cases ht
  · obtain ⟨t, ht⟩ := h (n + 1) (by omega)
    simp only [hostFairEvents, List.mem_cons, List.not_mem_nil, or_false] at he
    rcases he with rfl | rfl | rfl
    · cases ht
    · cases ht
    · exact ⟨n + 1, by omega, rfl⟩
  · obtain ⟨fmt, bytes, tail, hd, _⟩ := h
    cases n <;> cases hd

end Sys2Proof.Tests
end

section
/-! Proofs about the state (10_state.md). -/

namespace Sys2Proof.Proofs

/-- Settles O46: the five elements (R33), then the five histories (R51), each read off a field of
`State.reset`. -/
theorem resetValues : Obligations.ResetValues :=
  ⟨rfl, rfl, rfl, rfl, rfl, rfl, rfl, rfl, rfl, rfl⟩

end Sys2Proof.Proofs
end

section
/-! Proofs about the LRC generator (40_lrc.md). -/

namespace Sys2Proof.Proofs

open Sys2Proof Sys2Proof.Machine Sys2Proof.Laws

/-- R110, the fold: one more byte of the sequence is one LRC.UPD of the register. -/
theorem lrcOf_concat (s : List Byte) (b : Byte) : lrcOf (s ++ [b]) = xor8 (lrcOf s) b :=
  List.foldl_concat lrcUpdate lrcClear b s

/-- R110, a column: the bytes are XORed bit by bit, so a byte flips the parity of exactly the columns it
has a bit in. -/
theorem getLsbD_lrcOf (s : List Byte) (i : Nat) :
    (lrcOf s).getLsbD i = true ↔ s.countP (fun b => b.getLsbD i) % 2 = 1 := by
  induction s with
  | nil => simp [lrcOf, lrcClear]
  | cons b s ih =>
    rw [lrcOf_cons, BitVec.getLsbD_xor, List.countP_cons]
    cases hb : b.getLsbD i with
    | false => simpa using ih
    | true =>
      rw [Bool.true_xor, Bool.not_eq_true', ← Bool.not_eq_true, ih, if_pos rfl]
      omega

/-- Settles O1: the start value is LRC.CLR's, then the fold and the columns. -/
theorem lrcIsColumnParity : Obligations.LrcIsColumnParity :=
  ⟨rfl, lrcOf_concat, fun s i _ => getLsbD_lrcOf s i⟩

end Sys2Proof.Proofs
end

section
/-! Proofs about the encoder (41_frame_encode.md). -/

namespace Sys2Proof.Proofs

open Sys2Proof Sys2Proof.Machine

/-! ## ENC -/

/-- R120, the refusal. -/
theorem exec_enc_of_lt {cmd sub : Field2} {data : List Byte} {s : State}
    (h : s.params.maxData < data.length) :
    exec (.enc cmd sub data) s = .next (setResult (some (.status .frameTooLarge)) s) := by
  simp only [exec, execEnc, frameEncode, if_pos h]

/-- R120, the frame. -/
theorem exec_enc_of_le {cmd sub : Field2} {data : List Byte} {s : State}
    (h : data.length ≤ s.params.maxData) :
    exec (.enc cmd sub data) s = .next (setResult (some (.bytes (frameBytes cmd sub data))) s) := by
  simp only [exec, execEnc, frameEncode, if_neg (Nat.not_lt.mpr h)]

/-- Settles O7: by whether the data exceed `MAX_DATA`. -/
theorem encEncodesOrFrameTooLarge : Obligations.EncEncodesOrFrameTooLarge := by
  intro cmd sub data s
  refine ⟨⟨rfl, rfl⟩, ?_⟩
  by_cases h : data.length > s.params.maxData
  · rw [exec_enc_of_lt h, if_pos h, setResult]
  · rw [exec_enc_of_le (Nat.le_of_not_lt h), if_neg h]
    rfl

/-! ## The byte of a write at an index (R124) -/

/-- The STX. -/
theorem frameByte_zero (q : Request) (lrc : Byte) : frameByte q lrc 0 = 0x02#8 := rfl

/-- The two bytes of the command. -/
theorem getElem?_cmd_eq_frameByte (q : Request) (lrc : Byte) {idx : Nat} (h1 : 1 ≤ idx) (h2 : idx ≤ 2) :
    q.cmd.toList[idx - 1]? = some (frameByte q lrc idx) := by
  obtain rfl | rfl : idx = 1 ∨ idx = 2 := by omega
  · rfl
  · rfl

/-- The two bytes of the subcommand. -/
theorem getElem?_sub_eq_frameByte (q : Request) (lrc : Byte) {idx : Nat} (h1 : 3 ≤ idx) (h2 : idx ≤ 4) :
    q.sub.toList[idx - 3]? = some (frameByte q lrc idx) := by
  obtain rfl | rfl : idx = 3 ∨ idx = 4 := by omega
  · rfl
  · rfl

/-- Behind the header: the data, the ETX, the LRC. -/
theorem frameByte_add_hdrLen (q : Request) (lrc : Byte) (i : Nat) :
    frameByte q lrc (i + 5) =
      if i < q.data.length then q.data.getD i 0x00#8
      else if i = q.data.length then 0x03#8 else lrc := by
  simp [frameByte, Nat.add_comm 5]

/-- The data bytes. -/
theorem getElem?_data_eq_frameByte (q : Request) (lrc : Byte) {idx : Nat} (h1 : 5 ≤ idx)
    (h2 : idx ≤ 4 + q.data.length) : q.data[idx - 5]? = some (frameByte q lrc idx) := by
  obtain ⟨i, rfl⟩ := Nat.exists_eq_add_of_le' h1
  have hi : i < q.data.length := by omega
  simp [frameByte_add_hdrLen, hi]

/-- The ETX. -/
theorem frameByte_etx (q : Request) (lrc : Byte) : frameByte q lrc (5 + q.data.length) = 0x03#8 := by
  simp [Nat.add_comm 5, frameByte_add_hdrLen]

/-- The LRC byte. -/
theorem frameByte_lrc (q : Request) (lrc : Byte) : frameByte q lrc (6 + q.data.length) = lrc := by
  rw [show 6 + q.data.length = (q.data.length + 1) + 5 by omega, frameByte_add_hdrLen]
  simp

/-! ## TX.EMIT -/

/-- R124, the effect and its frame: one byte on the TX stream, the LRC over command through ETX, the
count. -/
theorem emitNextByte_eq (a : Active) (s : State) :
    emitNextByte a s = { s with
      txLog := s.txLog ++ [frameByte a.req s.lrcTx a.idx]
      lrcTx := if 1 ≤ a.idx ∧ a.idx ≤ 5 + a.req.data.length
        then xor8 s.lrcTx (frameByte a.req s.lrcTx a.idx) else s.lrcTx
      cur := some { a with idx := a.idx + 1 } } := by
  by_cases h : 1 ≤ a.idx ∧ a.idx ≤ 5 + a.req.data.length
  · simp only [emitNextByte, Config.hdrLen, if_pos h]
    rfl
  · simp only [emitNextByte, Config.hdrLen, if_neg h]
    rfl

/-- R124, on an open link with bytes of the frame left. -/
theorem exec_txEmit_of_lt {s : State} {a : Active} (hl : s.link = .opened) (hc : s.cur = some a)
    (hi : a.idx < frameLength a.req) :
    exec .txEmit s = .next (setResult none (emitNextByte a s)) := by
  simp only [exec, execTxEmit, hl, hc, if_pos hi]

/-- R124, on a Closed link. -/
theorem exec_txEmit_of_closed {s : State} (hl : s.link = .closed) :
    exec .txEmit s = .refused (.notEnabled .linkIsClosed) := by
  simp only [exec, execTxEmit, hl]

/-- R124, without a write in progress. -/
theorem exec_txEmit_of_none {s : State} (hl : s.link = .opened) (hc : s.cur = none) :
    exec .txEmit s = .refused (.notEnabled .noWriteInProgress) := by
  simp only [exec, execTxEmit, hl, hc]

/-- R124, with every byte of the frame out. -/
theorem exec_txEmit_of_le {s : State} {a : Active} (hl : s.link = .opened) (hc : s.cur = some a)
    (hi : frameLength a.req ≤ a.idx) :
    exec .txEmit s = .refused (.notEnabled .frameAllEmitted) := by
  simp only [exec, execTxEmit, hl, hc, if_neg (Nat.not_lt.mpr hi)]

/-- Settles O9: the byte sent is `frameByte`, read off range by range; then the three refusals. -/
theorem txEmitSendsNextByte : Obligations.TxEmitSendsNextByte := by
  refine ⟨⟨rfl, rfl⟩, ?_, fun _ => exec_txEmit_of_closed, fun _ => exec_txEmit_of_none,
    fun _ _ _ hl hc hi => exec_txEmit_of_le hl hc hi⟩
  intro s q idx hl hc hi
  refine ⟨frameByte q s.lrcTx idx, none, ?_, ?_, getElem?_cmd_eq_frameByte q _,
    getElem?_sub_eq_frameByte q _, getElem?_data_eq_frameByte q _, ?_, ?_⟩
  · rw [exec_txEmit_of_lt hl hc hi, emitNextByte_eq, setResult]
  · rintro rfl
    exact frameByte_zero q _
  · rintro rfl
    exact frameByte_etx q _
  · rintro rfl
    exact frameByte_lrc q _

end Sys2Proof.Proofs
end

section
/-! Proofs about the decoder (42_frame_decode.md): each statement is one shape of the buffer. -/

namespace Sys2Proof.Proofs

open Sys2Proof Sys2Proof.Machine Sys2Proof.Laws

/-- Settles O14: the buffer has the shape of leading garbage (R138). -/
theorem leadingGarbageIsInvalid : Obligations.LeadingGarbageIsInvalid :=
  fun _ g rest hg hs hr => (DecodeShape.garbage g rest hg hs hr).eq

/-- Settles O15: the buffer has the shape of an overlong candidate (R139). -/
theorem overlongCandidateIsInvalid : Obligations.OverlongCandidateIsInvalid :=
  fun _ g rest hg hr hlen he => (DecodeShape.overlong g rest hg hr hlen he).eq

/-- Settles O16: the bytes in the order the search for ETX meets them, then the check of step 4 (R140). -/
theorem completeCandidateIsChecked : Obligations.CompleteCandidateIsChecked := by
  intro maxData c0 c1 u0 u1 l data rest hd he
  have hbuf : [0x02#8, c0, c1, u0, u1] ++ data ++ [0x03#8, l] ++ rest =
      Config.stxByte :: ([c0, c1, u0, u1] ++ data ++ Config.etxByte :: l :: rest) := by
    rw [List.append_assoc _ [0x03#8, l] rest]
    rfl
  rw [hbuf]
  exact decode_candidate_checks maxData c0 c1 u0 u1 l data rest hd he

end Sys2Proof.Proofs
end

section
/-! Proofs about the accumulator (43_accumulator.md). -/

namespace Sys2Proof.Proofs

open Sys2Proof Sys2Proof.Machine Sys2Proof.Laws

/-! ## ACC.STEP -/

/-- R157, enabled: the one event of the outcome is emitted and its bytes are dropped. -/
theorem exec_accStep_of_event {s : State} {ev : AccEvent} {k : Nat} (hl : s.link = .opened)
    (he : accEvent (frameDecode s.params.maxData s.acc) = some (ev, k)) :
    exec .accStep s = .next (setResult none (consume k (emitAccEvent ev s))) := by
  simp only [exec, execAccStep, hl, accStepOnce_of_some he]

/-- R157, NeedMoreBytes. -/
theorem exec_accStep_of_needMoreBytes {s : State} (hl : s.link = .opened)
    (hd : frameDecode s.params.maxData s.acc = .needMoreBytes) :
    exec .accStep s = .refused (.notEnabled .quiescent) := by
  simp only [exec, execAccStep, hl, accStepOnce_of_none ((accEvent_eq_none _).mpr hd)]

/-- R157, while Closed. -/
theorem exec_accStep_of_closed {s : State} (hl : s.link = .closed) :
    exec .accStep s = .refused (.notEnabled .linkIsClosed) := by
  simp only [exec, execAccStep, hl]

/-- R157, R162: the event takes at least one byte, and no more than there are. -/
theorem exec_accStep_shortens_acc {s t : State} (h : exec .accStep s = .next t) :
    t.acc.length < s.acc.length := by
  cases exec_next h with
  | accStep _ ev k hl he =>
    have hk := accEvent_count s.params.maxData s.acc ev k he
    simp only [setResult_acc, consume_acc, emitAccEvent_acc, List.length_drop]
    omega
  | wire _ bs _ hf => exact absurd rfl hf

/-- Settles O24: each outcome of Decode but NeedMoreBytes is an event with its count, which
`exec_accStep_of_event` performs. -/
theorem accStepResolvesOneOutcome : Obligations.AccStepResolvesOneOutcome := by
  refine ⟨⟨rfl, rfl⟩, fun s => ⟨?frame, ?checksumError, ?invalid, exec_accStep_of_needMoreBytes,
    exec_accStep_of_closed, fun _ => exec_accStep_shortens_acc⟩⟩
  case frame =>
    intro hl cmd sub data used hd
    exact ⟨none, exec_accStep_of_event hl (congrArg accEvent hd)⟩
  case checksumError =>
    intro hl used hd
    exact ⟨none, exec_accStep_of_event hl (congrArg accEvent hd)⟩
  case invalid =>
    intro hl drop hd
    exact ⟨none, exec_accStep_of_event hl (congrArg accEvent hd)⟩

/-! ## RX.PUSH -/

/-- R156: quiescence is Decode's NeedMoreBytes. -/
theorem quiescent_iff_needMoreBytes (s : State) :
    quiescent s = true ↔ frameDecode s.params.maxData s.acc = .needMoreBytes :=
  (quiescent_iff s).trans (accEvent_eq_none _)

/-- R155, enabled. -/
theorem exec_rxPush_of_quiescent {b : Byte} {s : State} (hl : s.link = .opened)
    (hq : quiescent s = true) : exec (.rxPush b) s = .next (setResult none (pushByte b s)) := by
  simp only [exec, execRxPush, hl, if_pos hq]

/-- R155, with something to resolve first. -/
theorem exec_rxPush_of_not_quiescent {b : Byte} {s : State} (hl : s.link = .opened)
    (hq : ¬ quiescent s = true) : exec (.rxPush b) s = .refused (.notEnabled .notQuiescent) := by
  simp only [exec, execRxPush, hl, if_neg hq]

/-- R155, while Closed. -/
theorem exec_rxPush_of_closed {b : Byte} {s : State} (hl : s.link = .closed) :
    exec (.rxPush b) s = .refused (.notEnabled .linkIsClosed) := by
  simp only [exec, execRxPush, hl]

/-- Settles O23: by the link and by whether the accumulator is quiescent. -/
theorem rxPushAppendsReceivedByte : Obligations.RxPushAppendsReceivedByte := by
  intro b s
  have hq := quiescent_iff_needMoreBytes s
  exact ⟨⟨rfl, rfl⟩,
    fun hl hd => ⟨none, exec_rxPush_of_quiescent hl (hq.mpr hd)⟩,
    exec_rxPush_of_closed,
    fun hl hd => exec_rxPush_of_not_quiescent hl (mt hq.mp hd)⟩

end Sys2Proof.Proofs
end

section
/-! Proofs about the link and the arbiter (44_transport_arbiter.md): one lemma per operation and case of its
precondition, from which each statement is assembled. -/

namespace Sys2Proof.Proofs

open Sys2Proof Sys2Proof.Machine

/-! ## LINK.OPEN -/

/-- R177, R253 c: "already open" is answered before the port is tried, so for either draw. -/
theorem exec_linkOpen_of_opened {portOk : Bool} {s : State} (hl : s.link = .opened) :
    exec (.linkOpen portOk) s = .next (setResult (some (.status .connectionError)) s) := by
  simp only [exec, execLinkOpen, hl]

/-- R177, on a Closed link, by the draw `env.port_ok`. -/
theorem exec_linkOpen_of_closed {portOk : Bool} {s : State} (hl : s.link = .closed) :
    exec (.linkOpen portOk) s =
      if portOk = true then .next (setResult (some (.status (.ok none))) (openLink s))
      else .next (setResult (some (.status .connectionError)) s) := by
  simp only [exec, execLinkOpen, hl]

/-- Settles O31: by the link state. -/
theorem linkOpenOpensOrFails : Obligations.LinkOpenOpensOrFails := by
  intro portOk s
  refine ⟨⟨rfl, rfl⟩, ?_⟩
  cases hl : s.link with
  | opened => rw [exec_linkOpen_of_opened hl, if_pos rfl, setResult, hl]
  | closed =>
    rw [exec_linkOpen_of_closed hl, if_neg (by decide : ¬ Link.closed = .opened), setResult, setResult,
      openLink, hl]

/-! ## The closure that LINK.CLOSE and LINK.TERR share -/

/-- R178, R179, with no write in progress: only the queue is completed. -/
theorem closeLink_of_idle {s : State} (st : Status) (hc : s.cur = none) :
    closeLink st s = { s with
      doneLog := s.doneLog ++ s.wq.map (fun q => (q.r, .linkClosed))
      wq := [], cur := none, acc := [], link := .closed } := by
  simp [closeLink, hc]

/-- R178, R179, with a write in progress: the writer is completed before the queue. -/
theorem closeLink_of_busy {s : State} {a : Active} (st : Status) (hc : s.cur = some a) :
    closeLink st s = { s with
      doneLog := s.doneLog ++ (a.req.r, st) :: s.wq.map (fun q => (q.r, .linkClosed))
      wq := [], cur := none, acc := [], link := .closed } := by
  simp [closeLink, hc]

/-! ## LINK.CLOSE -/

/-- R178, R190, on a Closed link. -/
theorem exec_linkClose_of_closed {s : State} (hl : s.link = .closed) :
    exec .linkClose s = .next (setResult none s) := by
  simp only [exec, execLinkClose, hl]

/-- R178, on an open link: the writer, too, gets LinkClosed. -/
theorem exec_linkClose_of_opened {s : State} (hl : s.link = .opened) :
    exec .linkClose s = .next (setResult none (closeLink .linkClosed s)) := by
  simp only [exec, execLinkClose, hl]

/-- Settles O32: while Closed nothing happens; while Open the closure, idle or busy. -/
theorem linkCloseReleasesEveryRequester : Obligations.LinkCloseReleasesEveryRequester := by
  refine ⟨⟨rfl, rfl⟩, fun s => ⟨?closed, ?idle, ?busy⟩⟩
  case closed =>
    intro hl
    exact ⟨none, exec_linkClose_of_closed hl⟩
  case idle =>
    intro hl hc
    exact ⟨none, by rw [exec_linkClose_of_opened hl, closeLink_of_idle _ hc, setResult]⟩
  case busy =>
    intro a hl hc
    exact ⟨none, by rw [exec_linkClose_of_opened hl, closeLink_of_busy _ hc, setResult]⟩

/-! ## LINK.TERR -/

/-- R179, while Closed. -/
theorem exec_linkTerr_of_closed {s : State} (hl : s.link = .closed) :
    exec .linkTerr s = .refused (.notEnabled .linkIsClosed) := by
  simp only [exec, execLinkTerr, hl]

/-- R179, on an open link: the writer gets TransportError, and the failure is reported. -/
theorem exec_linkTerr_of_opened {s : State} (hl : s.link = .opened) :
    exec .linkTerr s =
      .next (setResult none (emitDiag .transportFailure (closeLink .transportError s))) := by
  simp only [exec, execLinkTerr, hl]

/-- Settles O33: refused while Closed; while Open the closure, idle or busy, and the DIAG event. -/
theorem linkTerrFailsTheWriter : Obligations.LinkTerrFailsTheWriter := by
  refine ⟨⟨rfl, rfl⟩, fun s => ⟨exec_linkTerr_of_closed, ?idle, ?busy⟩⟩
  case idle =>
    intro hl hc
    exact ⟨none, by rw [exec_linkTerr_of_opened hl, closeLink_of_idle _ hc, emitDiag, setResult]⟩
  case busy =>
    intro a hl hc
    exact ⟨none, by rw [exec_linkTerr_of_opened hl, closeLink_of_busy _ hc, emitDiag, setResult]⟩

/-! ## WR.REQ -/

section WrReq

variable {r : Nat} {cmd sub : Field2} {data : List Byte} {s : State}

/-- R180, R253 b: the length is tested before the link, so in either link state. -/
theorem exec_wrReq_of_tooLarge (hr : r < s.params.nreq) (ho : r ∉ outstanding s)
    (hd : s.params.maxData < data.length) :
    exec (.wrReq r cmd sub data) s = .next (setResult none (complete r .frameTooLarge s)) := by
  simp only [exec, execWrReq, if_neg (Nat.not_le.mpr hr), if_neg ho, if_pos hd]

/-- R180, while Closed. -/
theorem exec_wrReq_of_closed (hr : r < s.params.nreq) (ho : r ∉ outstanding s)
    (hd : data.length ≤ s.params.maxData) (hl : s.link = .closed) :
    exec (.wrReq r cmd sub data) s = .next (setResult none (complete r .linkClosed s)) := by
  simp only [exec, execWrReq, if_neg (Nat.not_le.mpr hr), if_neg ho, if_neg (Nat.not_lt.mpr hd), hl]

/-- R180, queued. -/
theorem exec_wrReq_of_opened (hr : r < s.params.nreq) (ho : r ∉ outstanding s)
    (hd : data.length ≤ s.params.maxData) (hl : s.link = .opened) :
    exec (.wrReq r cmd sub data) s =
      .next (setResult none (enqueue { r := r, cmd := cmd, sub := sub, data := data } s)) := by
  simp only [exec, execWrReq, if_neg (Nat.not_le.mpr hr), if_neg ho, if_neg (Nat.not_lt.mpr hd), hl]

/-- R180, R293, of an outstanding requester. -/
theorem exec_wrReq_of_outstanding (hr : r < s.params.nreq) (ho : r ∈ outstanding s) :
    exec (.wrReq r cmd sub data) s = .refused (.requesterOutstanding r) := by
  simp only [exec, execWrReq, if_neg (Nat.not_le.mpr hr), if_pos ho]

/-- R180, of a number that is no requester of this machine. -/
theorem exec_wrReq_of_nreq_le (hr : s.params.nreq ≤ r) :
    exec (.wrReq r cmd sub data) s = .refused (.noSuchRequester r) := by
  simp only [exec, execWrReq, if_pos hr]

end WrReq

/-- Settles O34: the tests in the order WR.REQ makes them decide the case. -/
theorem wrReqQueuesOrCompletesAtOnce : Obligations.WrReqQueuesOrCompletesAtOnce :=
  fun _ _ _ _ _ => ⟨⟨rfl, rfl⟩,
    fun hr ho hd => ⟨none, exec_wrReq_of_tooLarge hr ho hd⟩,
    fun hr ho hd hl => ⟨none, exec_wrReq_of_closed hr ho hd hl⟩,
    fun hr ho hd hl => ⟨none, exec_wrReq_of_opened hr ho hd hl⟩,
    exec_wrReq_of_outstanding,
    exec_wrReq_of_nreq_le⟩

/-! ## WR.GRANT -/

/-- R181, enabled: the head of the queue becomes the write in progress. -/
theorem exec_wrGrant_of_cons {s : State} {q : Request} {rest : List Request} (hl : s.link = .opened)
    (hc : s.cur = none) (hw : s.wq = q :: rest) :
    exec .wrGrant s = .next (setResult none (clearLrcTx (startWrite q rest s))) := by
  simp only [exec, execWrGrant, hl, hc, hw]

/-- R181, while Closed. -/
theorem exec_wrGrant_of_closed {s : State} (hl : s.link = .closed) :
    exec .wrGrant s = .refused (.notEnabled .linkIsClosed) := by
  simp only [exec, execWrGrant, hl]

/-- R181, while a write is in progress. -/
theorem exec_wrGrant_of_busy {s : State} {a : Active} (hl : s.link = .opened) (hc : s.cur = some a) :
    exec .wrGrant s = .refused (.notEnabled .writeInProgress) := by
  simp only [exec, execWrGrant, hl, hc]

/-- R181, with nobody waiting. -/
theorem exec_wrGrant_of_nil {s : State} (hl : s.link = .opened) (hc : s.cur = none) (hw : s.wq = []) :
    exec .wrGrant s = .refused (.notEnabled .queueEmpty) := by
  simp only [exec, execWrGrant, hl, hc, hw]

/-- Settles O35: the start of the write with LRC.CLR; then the three refusals. -/
theorem wrGrantStartsTheOldest : Obligations.WrGrantStartsTheOldest :=
  ⟨⟨rfl, rfl⟩, fun _ => ⟨fun _ _ hl hc hw => ⟨none, exec_wrGrant_of_cons hl hc hw⟩,
    exec_wrGrant_of_closed, fun _ => exec_wrGrant_of_busy, exec_wrGrant_of_nil⟩⟩

/-! ## WR.DONE -/

/-- R182, enabled: every byte of the frame is out. -/
theorem exec_wrDone_of_eq {s : State} {a : Active} (hc : s.cur = some a) (hi : a.idx = frameLength a.req) :
    exec .wrDone s =
      .next (setResult none (endWrite (complete a.req.r (.ok (some (frameLength a.req))) s))) := by
  simp only [exec, execWrDone, hc, if_pos hi]

/-- R182, with bytes of the frame left. -/
theorem exec_wrDone_of_ne {s : State} {a : Active} (hc : s.cur = some a) (hi : a.idx ≠ frameLength a.req) :
    exec .wrDone s = .refused (.notEnabled .frameNotAllEmitted) := by
  simp only [exec, execWrDone, hc, if_neg hi]

/-- R182, without a write in progress. -/
theorem exec_wrDone_of_none {s : State} (hc : s.cur = none) :
    exec .wrDone s = .refused (.notEnabled .noWriteInProgress) := by
  simp only [exec, execWrDone, hc]

/-- Settles O36: the completion carries the index reached, the frame's length `L + 7`; then the two
refusals. -/
theorem wrDoneReportsBytesWritten : Obligations.WrDoneReportsBytesWritten :=
  ⟨⟨rfl, rfl⟩, fun _ => ⟨fun _ hc => ⟨none, exec_wrDone_of_eq hc rfl⟩,
    fun _ _ hc hi => exec_wrDone_of_ne hc hi, exec_wrDone_of_none⟩⟩

end Sys2Proof.Proofs
end

section
/-! Proofs about the checksum (40_lrc.md): its algebra, and the unit that computes it. -/

namespace Sys2Proof.Proofs

open Sys2Proof Sys2Proof.Machine Sys2Proof.Laws

/-! ## The algebra of the checksum -/

/-- R117 L2. -/
theorem lrcOf_append (s t : List Byte) : lrcOf (s ++ t) = lrcOf s ^^^ lrcOf t := by
  rw [lrcOf, List.foldl_append, foldl_lrcUpdate]
  rfl

/-- R110. -/
theorem lrcOf_nil : lrcOf [] = 0x00#8 := rfl

/-- R110. -/
theorem lrcOf_singleton (b : Byte) : lrcOf [b] = b := by
  rw [lrcOf_cons, lrcOf_nil, BitVec.xor_zero]

/-- R117 L3: the parity of a column over two sequences of one length is that of the differing positions. -/
theorem getLsbD_lrcOf_eq_iff {s t : List Byte} (h : s.length = t.length) (i : Nat) :
    (lrcOf s).getLsbD i = (lrcOf t).getLsbD i ↔
      ((s.zip t).countP (fun p => p.1.getLsbD i != p.2.getLsbD i)) % 2 = 0 := by
  induction s generalizing t with
  | nil =>
    cases t with
    | nil => simp
    | cons y t => simp at h
  | cons x s ih =>
    cases t with
    | nil => simp at h
    | cons y t =>
      have ih := ih (t := t) (by simpa using h)
      rw [lrcOf_cons, lrcOf_cons, BitVec.getLsbD_xor, BitVec.getLsbD_xor, List.zip_cons_cons, List.countP_cons]
      by_cases hxy : x.getLsbD i = y.getLsbD i
      · simpa [hxy] using ih
      · have hy : y.getLsbD i = !x.getLsbD i := by
          cases hx : x.getLsbD i <;> simp_all
        have hodd : ((s.zip t).countP (fun p => p.1.getLsbD i != p.2.getLsbD i) + 1) % 2 = 0 ↔
            ¬ ((s.zip t).countP (fun p => p.1.getLsbD i != p.2.getLsbD i)) % 2 = 0 := by omega
        simp only [hy, bne_iff_ne, ne_eq, Bool.eq_not_self, not_false_eq_true, if_true] at hodd ⊢
        rw [hodd, ← ih]
        cases x.getLsbD i <;> cases (lrcOf s).getLsbD i <;> cases (lrcOf t).getLsbD i <;> decide

/-- R117 L3: two checksums are equal exactly when they are in all eight columns. -/
theorem lrcOf_eq_iff_columns {s t : List Byte} (h : s.length = t.length) :
    lrcOf s = lrcOf t ↔
      ∀ i : Nat, i < 8 → ((s.zip t).countP (fun p => p.1.getLsbD i != p.2.getLsbD i)) % 2 = 0 := by
  rw [BitVec.eq_of_getLsbD_eq_iff]
  exact forall₂_congr fun i _ => getLsbD_lrcOf_eq_iff h i

/-- R117 L4: the order of the bytes does not matter. -/
theorem lrcOf_perm {s t : List Byte} (h : s.Perm t) : lrcOf s = lrcOf t := by
  induction h with
  | nil => rfl
  | cons x _ ih => rw [lrcOf_cons, lrcOf_cons, ih]
  | swap x y s => simp only [lrcOf_cons, ← BitVec.xor_assoc, BitVec.xor_comm x y]
  | trans _ _ ih₁ ih₂ => exact ih₁.trans ih₂

/-- R117 L7: one changed byte shows as exactly its difference. -/
theorem xor_lrcOf_of_one_byte (pre post : List Byte) (a b : Byte) :
    lrcOf (pre ++ [a] ++ post) ^^^ lrcOf (pre ++ [b] ++ post) = a ^^^ b := by
  simp only [lrcOf_append, lrcOf_singleton]
  generalize lrcOf pre = p
  generalize lrcOf post = q
  ext i
  simp only [BitVec.getElem_xor]
  cases p[i] <;> cases q[i] <;> simp

/-- Settles O5: concatenation first, from which own checksum, zero bytes and equal pairs follow. -/
theorem lrcAlgebraicLaws : Obligations.LrcAlgebraicLaws := by
  refine ⟨lrcOf_append, ?ownChecksum, fun _ _ => lrcOf_perm, ?zeroByte, ?equalPair,
    fun _ _ => lrcOf_eq_iff_columns, ?oneByte⟩
  case ownChecksum =>
    intro s
    rw [lrcOf_append, lrcOf_singleton, BitVec.xor_self]
  case zeroByte =>
    intro s t
    rw [lrcOf_append, lrcOf_append, lrcOf_append, lrcOf_singleton, BitVec.xor_zero]
  case equalPair =>
    intro s t u b
    have hperm : (s ++ [b] ++ t ++ [b] ++ u).Perm ([b] ++ [b] ++ (s ++ t ++ u)) := by
      rw [List.perm_iff_count]
      intro x
      simp only [List.count_append]
      omega
    rw [lrcOf_perm hperm, lrcOf_append, lrcOf_append [b], BitVec.xor_self, BitVec.zero_xor]
  case oneByte =>
    intro pre post a b hab
    have hx := xor_lrcOf_of_one_byte pre post a b
    refine ⟨hx, fun heq => hab ?_⟩
    rwa [heq, BitVec.xor_self, eq_comm, BitVec.xor_eq_zero_iff] at hx

/-! ## The unit -/

/-- R113, R114: updates and the read, from any register value. -/
theorem runOps_lrcUpd (bs : List Byte) (s : State) :
    runOps (bs.map Instr.lrcUpd ++ [.lrcRd]) s =
      .next { s with lrc := s.lrc ^^^ lrcOf bs, result := some (.byte (s.lrc ^^^ lrcOf bs)) } := by
  induction bs generalizing s with
  | nil =>
    rw [lrcOf_nil, BitVec.xor_zero]
    rfl
  | cons b bs ih =>
    have hupd : exec (.lrcUpd b) s = .next (setResult none { s with lrc := s.lrc ^^^ b }) := rfl
    simp only [List.map_cons, List.cons_append, runOps, hupd, ih, lrcOf_cons, setResult,
      BitVec.xor_assoc]

/-- Settles O4: LRC.CLR puts the register to zero, from where the updates compute the checksum. -/
theorem lrcUnitComputesLrc : Obligations.LrcUnitComputesLrc := by
  intro bs s
  have hclr : exec .lrcClr s = .next (setResult none { s with lrc := 0x00#8 }) := rfl
  simp only [runOps, hclr, runOps_lrcUpd, setResult, BitVec.zero_xor]

/-- Settles O2: each is its own definition. -/
theorem lrcOperationsActOnUnitRegister : Obligations.LrcOperationsActOnUnitRegister :=
  ⟨⟨rfl, rfl⟩, fun _ => ⟨none, rfl⟩, fun _ _ => ⟨⟨rfl, rfl⟩, none, rfl⟩, ⟨rfl, rfl⟩, fun _ => rfl⟩

end Sys2Proof.Proofs
end

section
/-! Proofs about the wire frame (41_frame_encode.md, 42_frame_decode.md): the layout of an encoded frame, and
what Decode answers for a frame as sent, cut, extended or damaged. -/

namespace Sys2Proof.Proofs

open Sys2Proof Sys2Proof.Machine Sys2Proof.Laws

/-! ## The encoded frame -/

/-- R120: which frames Encode answers. -/
theorem frameEncode_eq_some {maxData : Nat} {cmd sub : Field2} {data f : List Byte} :
    frameEncode maxData cmd sub data = some f ↔ data.length ≤ maxData ∧ frameBytes cmd sub data = f := by
  by_cases h : maxData < data.length
  · simp [frameEncode, h]
  · simp [frameEncode, h, Nat.le_of_not_lt h]

/-- R80: the frame byte by byte, in the shape that Decode looks for. -/
theorem frameBytes_eq (cmd sub : Field2) (data : List Byte) :
    frameBytes cmd sub data = Config.stxByte :: ([cmd.b0, cmd.b1, sub.b0, sub.b1] ++ data ++
      [Config.etxByte, lrcOf (coveredBytes cmd sub data)]) := by
  simp [frameBytes, coveredBytes, Field2.toList]

/-- R81: the covered bytes as Decode checks them. -/
theorem coveredBytes_eq (cmd sub : Field2) (data : List Byte) :
    coveredBytes cmd sub data = [cmd.b0, cmd.b1, sub.b0, sub.b1] ++ data ++ [Config.etxByte] := rfl

/-- R123 E1. -/
theorem length_frameBytes (cmd sub : Field2) (data : List Byte) :
    (frameBytes cmd sub data).length = data.length + 7 := by
  simp [frameBytes_eq]

/-! ## The round trip -/

/-- Settles O18: the frame has the shape of a complete candidate, and its last byte is the checksum that
step 4 computes again. -/
theorem decodeOfEncodeIsTheFrame : Obligations.DecodeOfEncodeIsTheFrame := by
  intro maxData cmd sub data f t hf he
  obtain ⟨hd, rfl⟩ := frameEncode_eq_some.mp hf
  have hbuf : frameBytes cmd sub data ++ t = Config.stxByte :: ([cmd.b0, cmd.b1, sub.b0, sub.b1] ++ data ++
      Config.etxByte :: lrcOf (coveredBytes cmd sub data) :: t) := by
    simp [frameBytes_eq]
  rw [hbuf, decode_candidate_checks maxData _ _ _ _ _ data t hd he, checkedAs, coveredBytes_eq, if_pos rfl]

/-- Settles O19: the first ETX of DATA ends a candidate with the data before it, whose checksum byte is the
one behind that ETX. -/
theorem etxInDataCutsTheFrame : Obligations.EtxInDataCutsTheFrame := by
  intro maxData cmd sub pre post f he hf
  obtain ⟨hd, rfl⟩ := frameEncode_eq_some.mp hf
  have hpre : pre.length ≤ maxData := by simp at hd; omega
  obtain ⟨l, r, hlr⟩ : ∃ l r, post ++ [Config.etxByte, lrcOf (coveredBytes cmd sub (pre ++ [0x03#8] ++ post))] =
      l :: r := by
    cases post with
    | nil => exact ⟨_, _, rfl⟩
    | cons x post => exact ⟨_, _, rfl⟩
  have hbuf : frameBytes cmd sub (pre ++ [0x03#8] ++ post) =
      Config.stxByte :: ([cmd.b0, cmd.b1, sub.b0, sub.b1] ++ pre ++ Config.etxByte :: l :: r) := by
    rw [frameBytes_eq, ← hlr]
    simp
  have hl : (frameBytes cmd sub (pre ++ [0x03#8] ++ post))[pre.length + 6]? = some l := by
    rw [hbuf]
    simp
  rw [hl, hbuf, decode_candidate_checks maxData _ _ _ _ l pre r hpre he]
  simp [checkedAs, Field2.toList]

/-! ## The outcomes one by one -/

/-- Settles O12: DEC is `frameDecode` on its operand, put into the result. -/
theorem decReportsOutcomeAndChangesNothing : Obligations.DecReportsOutcomeAndChangesNothing :=
  fun _ _ => ⟨⟨rfl, rfl⟩, rfl⟩

/-- R137: the shapes that are not resolved yet. -/
theorem frameDecode_eq_needMoreBytes_iff (maxData : Nat) (buf : List Byte) :
    frameDecode maxData buf = .needMoreBytes ↔
      buf = [] ∨
      (∃ r, buf = Config.stxByte :: r ∧ Config.etxByte ∉ r.drop 4 ∧ r.length ≤ maxData + 4) ∨
      (∃ h d : List Byte, buf = Config.stxByte :: (h ++ d ++ [Config.etxByte]) ∧ h.length = 4 ∧
        d.length ≤ maxData ∧ Config.etxByte ∉ d) := by
  constructor
  · intro hn
    have hs := frameDecode_shape maxData buf
    rw [hn] at hs
    cases hs with
    | empty => exact .inl rfl
    | short r he hlen => exact .inr (.inl ⟨r, rfl, he, hlen⟩)
    | etxLast h d hh hd he => exact .inr (.inr ⟨h, d, rfl, hh, hd, he⟩)
  · rintro (rfl | ⟨r, rfl, he, hlen⟩ | ⟨h, d, rfl, hh, hd, he⟩)
    · exact DecodeShape.empty.eq
    · exact (DecodeShape.short r he hlen).eq
    · exact (DecodeShape.etxLast h d hh hd he).eq

/-- R164: what is not resolved yet is short. -/
theorem length_le_of_needMoreBytes {maxData : Nat} {buf : List Byte}
    (h : frameDecode maxData buf = .needMoreBytes) : buf.length ≤ maxData + 6 := by
  rcases (frameDecode_eq_needMoreBytes_iff maxData buf).mp h with
    rfl | ⟨r, rfl, -, hlen⟩ | ⟨h, d, rfl, hh, hd, -⟩
  · simp
  · simp; omega
  · simp; omega

/-- R164: what is not resolved yet is nothing, or a candidate. -/
theorem head?_of_needMoreBytes {maxData : Nat} {buf : List Byte}
    (h : frameDecode maxData buf = .needMoreBytes) : buf = [] ∨ buf.head? = some Config.stxByte := by
  rcases (frameDecode_eq_needMoreBytes_iff maxData buf).mp h with
    rfl | ⟨r, rfl, -, -⟩ | ⟨h, d, rfl, -, -, -⟩
  · exact .inl rfl
  · exact .inr rfl
  · exact .inr rfl

/-- Settles O13: the three unresolved shapes, the second written with `head?` and the offset in the whole
buffer. -/
theorem needMoreBytesExactlyThreeWays : Obligations.NeedMoreBytesExactlyThreeWays := by
  intro maxData buf
  refine ⟨?_, length_le_of_needMoreBytes⟩
  rw [frameDecode_eq_needMoreBytes_iff]
  refine or_congr Iff.rfl (or_congr ?_ Iff.rfl)
  cases buf with
  | nil => simp
  | cons x r =>
    constructor
    · rintro ⟨_, ⟨⟩, he, hlen⟩
      exact ⟨rfl, by simp; omega, he⟩
    · rintro ⟨hx, hlen, he⟩
      obtain rfl : x = 0x02#8 := by simpa using hx
      exact ⟨r, rfl, he, by simp at hlen; omega⟩

/-- Settles O17: by the shapes that have a count. -/
theorem decodeOutcomesMakeProgress : Obligations.DecodeOutcomesMakeProgress := by
  intro maxData buf
  have hs := frameDecode_shape maxData buf
  refine ⟨fun k hk => ?invalid, fun k hk => ?checksumError, fun cmd sub data k hk => ?frame⟩
  case invalid =>
    rw [hk] at hs
    cases hs with
    | garbage g r hg =>
      have := List.length_pos_iff.mpr hg
      simp; omega
    | overlong g r => simp
  case checksumError =>
    rw [hk] at hs
    cases hs with
    | checksumError c0 c1 u0 u1 l d r hd => simp; omega
  case frame =>
    rw [hk] at hs
    cases hs with
    | frame c0 c1 u0 u1 l d r hd => simp; omega

end Sys2Proof.Proofs
end

section
/-! Proofs about later bytes and damage (42_frame_decode.md section 3): the outcomes under extension (R144), and
the flips of one bit (R145). -/

namespace Sys2Proof.Proofs

open Sys2Proof Sys2Proof.Machine Sys2Proof.Laws

/-! ## Later bytes (R144) -/

/-- R144 on Invalid, in full: with a byte behind the dropped part nothing changes; where the whole buffer was to
be dropped, the drop goes on up to the first STX of what follows. -/
def InvalidExtends (maxData : Nat) (buf t : List Byte) (k : Nat) : Prop :=
  (k < buf.length ∧ frameDecode maxData (buf ++ t) = .invalid k) ∨
  (k = buf.length ∧ ∃ g r, t = g ++ r ∧ Config.stxByte ∉ g ∧ (r = [] ∨ r.head? = some Config.stxByte) ∧
    frameDecode maxData (buf ++ t) = .invalid (k + g.length))

/-- Leading garbage, extended (R138, R144). -/
theorem garbage_extends (maxData : Nat) {g r : List Byte} (t : List Byte) (hg : g ≠ [])
    (hs : Config.stxByte ∉ g) (hr : r = [] ∨ r.head? = some Config.stxByte) :
    InvalidExtends maxData (g ++ r) t g.length := by
  rcases hr with rfl | hr
  · obtain ⟨g', r', rfl, hg', hr'⟩ := split_at_first Config.stxByte t
    have := (DecodeShape.garbage (maxData := maxData) (g ++ g') r' (by simp [hg]) (by simp [hs, hg']) hr').eq
    exact .inr ⟨by simp, g', r', rfl, hg', hr', by simpa using this⟩
  · have hpos : 0 < r.length := by cases r <;> simp_all
    refine .inl ⟨by simpa using hpos, ?_⟩
    rw [List.append_assoc]
    exact (DecodeShape.garbage g (r ++ t) hg hs (.inr (by simp [List.head?_append, hr]))).eq

/-- An overlong candidate, extended (R139, R144). -/
theorem overlong_extends {maxData : Nat} {g r : List Byte} (t : List Byte) (hg : Config.stxByte ∉ g)
    (hr : r = [] ∨ r.head? = some Config.stxByte)
    (hlen : maxData + 6 ≤ (Config.stxByte :: (g ++ r)).length)
    (he : Config.etxByte ∉ ((Config.stxByte :: (g ++ r)).drop 5).take (maxData + 1)) :
    InvalidExtends maxData (Config.stxByte :: (g ++ r)) t (g.length + 1) := by
  have hlen' : maxData + 6 ≤ (Config.stxByte :: (g ++ r) ++ t).length := by
    rw [List.length_append]; omega
  have he' : Config.etxByte ∉ ((Config.stxByte :: (g ++ r) ++ t).drop 5).take (maxData + 1) := by
    rwa [List.drop_append_of_le_length (by omega), List.take_append_of_le_length (by rw [List.length_drop]; omega)]
  rcases hr with rfl | hr
  · obtain ⟨g', r', rfl, hg', hr'⟩ := split_at_first Config.stxByte t
    have hbuf : Config.stxByte :: (g ++ []) ++ (g' ++ r') = Config.stxByte :: ((g ++ g') ++ r') := by simp
    rw [hbuf] at hlen' he'
    refine .inr ⟨by simp, g', r', rfl, hg', hr', ?_⟩
    rw [hbuf, (DecodeShape.overlong (g ++ g') r' (by simp [hg, hg']) hr' hlen' he').eq, List.length_append,
      Nat.add_right_comm]
  · have hpos : 0 < r.length := by cases r <;> simp_all
    have hbuf : Config.stxByte :: (g ++ r) ++ t = Config.stxByte :: (g ++ (r ++ t)) := by simp
    rw [hbuf] at hlen' he'
    refine .inl ⟨by simp; omega, ?_⟩
    rw [hbuf]
    exact (DecodeShape.overlong g (r ++ t) hg (.inr (by simp [List.head?_append, hr])) hlen' he').eq

/-- R144 on Invalid. -/
theorem invalid_extends {maxData : Nat} {buf : List Byte} {k : Nat} (t : List Byte)
    (h : frameDecode maxData buf = .invalid k) : InvalidExtends maxData buf t k := by
  have hs := frameDecode_shape maxData buf
  rw [h] at hs
  cases hs with
  | garbage g r hg hstx hr => exact garbage_extends maxData t hg hstx hr
  | overlong g r hg hr hlen he => exact overlong_extends t hg hr hlen he

/-- R144 on a complete candidate: what stands behind it is not looked at. -/
theorem frame_append {maxData : Nat} {buf : List Byte} {cmd sub : Field2} {data : List Byte} {k : Nat}
    (t : List Byte) (h : frameDecode maxData buf = .frame cmd sub data k) :
    frameDecode maxData (buf ++ t) = .frame cmd sub data k := by
  have hs := frameDecode_shape maxData buf
  rw [h] at hs
  cases hs with
  | frame c0 c1 u0 u1 l d r hd he hl =>
    simpa using (DecodeShape.frame c0 c1 u0 u1 l data (r ++ t) hd he hl).eq

/-- R144 on a complete candidate with a wrong checksum. -/
theorem checksumError_append {maxData : Nat} {buf : List Byte} {k : Nat} (t : List Byte)
    (h : frameDecode maxData buf = .checksumError k) : frameDecode maxData (buf ++ t) = .checksumError k := by
  have hs := frameDecode_shape maxData buf
  rw [h] at hs
  cases hs with
  | checksumError c0 c1 u0 u1 l d r hd he hl =>
    simpa using (DecodeShape.checksumError c0 c1 u0 u1 l d (r ++ t) hd he hl).eq

/-- Settles O20: the three outcomes extended. -/
theorem decodeOutcomeSurvivesExtension : Obligations.DecodeOutcomeSurvivesExtension := by
  refine fun maxData buf t => ⟨fun _ _ _ _ => frame_append t, fun _ => checksumError_append t, ?_, ?_⟩
  · intro k h hlt
    rcases invalid_extends t h with ⟨-, hk⟩ | ⟨rfl, -⟩
    · exact hk
    · exact absurd hlt (Nat.lt_irrefl _)
  · intro h
    rcases invalid_extends t h with ⟨hlt, -⟩ | ⟨-, g, r, -, -, -, hk⟩
    · exact absurd hlt (Nat.lt_irrefl _)
    · exact ⟨_, Nat.le_add_right _ _, hk⟩

/-! ## Flipped bits (R145) -/

/-- A flip of one of the eight bits changes the byte. -/
theorem xor_twoPow_ne_self {k : Nat} (hk : k < 8) (b : Byte) : b ^^^ BitVec.twoPow 8 k ≠ b := by
  intro h
  have := congrArg (fun b => b.getLsbD k) h
  simp [hk] at this

/-- A flip anywhere in the covered bytes shows in the checksum. -/
theorem lrcOf_set {s : List Byte} {j : Nat} {b : Byte} (m : Byte) (h : s[j]? = some b) :
    lrcOf (s.set j (b ^^^ m)) = lrcOf s ^^^ m := by
  induction s generalizing j with
  | nil => simp at h
  | cons x s ih =>
    cases j with
    | zero =>
      obtain rfl : x = b := by simpa using h
      rw [List.set_cons_zero, lrcOf_cons, lrcOf_cons, BitVec.xor_assoc, BitVec.xor_assoc,
        BitVec.xor_comm m]
    | succ j => rw [List.set_cons_succ, lrcOf_cons, lrcOf_cons, ih (by simpa using h), BitVec.xor_assoc]

/-- R140 for header and DATA taken together: no ETX in DATA, and a checksum byte that does not agree. -/
theorem frameDecode_of_wrong_lrc {maxData : Nat} {body : List Byte} {l : Byte} (hbody : 4 ≤ body.length)
    (hd : body.length ≤ maxData + 4) (he : Config.etxByte ∉ body.drop 4)
    (hl : lrcOf (body ++ [Config.etxByte]) ≠ l) :
    frameDecode maxData (Config.stxByte :: (body ++ [Config.etxByte, l])) =
      .checksumError (body.length + 3) := by
  match body, hbody with
  | c0 :: c1 :: u0 :: u1 :: d, _ =>
    simpa using (DecodeShape.checksumError c0 c1 u0 u1 l d [] (by simpa using hd) he hl).eq

/-- R145 S1, S2: a flip in header or DATA, none of DATA having become ETX. -/
theorem frameDecode_of_flipped_body {maxData : Nat} {body : List Byte} {j k : Nat} {b : Byte}
    (hbody : 4 ≤ body.length) (hd : body.length ≤ maxData + 4) (he : Config.etxByte ∉ body.drop 4)
    (hk : k < 8) (hb : body[j]? = some b) (hnot : 4 ≤ j → b ^^^ BitVec.twoPow 8 k ≠ Config.etxByte) :
    frameDecode maxData (Config.stxByte :: (body.set j (b ^^^ BitVec.twoPow 8 k) ++
      [Config.etxByte, lrcOf (body ++ [Config.etxByte])])) = .checksumError (body.length + 3) := by
  have hlen : (body.set j (b ^^^ BitVec.twoPow 8 k)).length = body.length := List.length_set
  rw [← hlen]
  refine frameDecode_of_wrong_lrc (hlen ▸ hbody) (hlen ▸ hd) ?_ ?_
  · rw [List.drop_set]
    split
    · exact he
    · intro hmem
      rcases List.mem_or_eq_of_mem_set hmem with hmem | heq
      · exact he hmem
      · exact hnot (by omega) heq.symm
  · rw [lrcOf_append, lrcOf_set _ hb, lrcOf_append, BitVec.xor_assoc, BitVec.xor_comm (BitVec.twoPow 8 k),
      ← BitVec.xor_assoc]
    exact xor_twoPow_ne_self hk _

/-- Settles O21: S1 and S2 flip a byte of header or DATA, S5 the checksum byte. -/
theorem singleBitFlipIsDetected : Obligations.SingleBitFlipIsDetected := by
  intro maxData cmd sub data f p k b hf hdata hk hp hrange hnot
  obtain ⟨hd, rfl⟩ := frameEncode_eq_some.mp hf
  rw [frameBytes_eq, coveredBytes_eq] at hp ⊢
  have hdrop : ([cmd.b0, cmd.b1, sub.b0, sub.b1] ++ data).drop 4 = data := rfl
  have hlen : ([cmd.b0, cmd.b1, sub.b0, sub.b1] ++ data).length = data.length + 4 := by simp
  generalize [cmd.b0, cmd.b1, sub.b0, sub.b1] ++ data = body at *
  obtain ⟨j, rfl⟩ : ∃ j, p = j + 1 := ⟨p - 1, by omega⟩
  rw [List.getElem?_cons_succ] at hp
  rw [List.set_cons_succ, show data.length + 7 = body.length + 3 by omega]
  have he : Config.etxByte ∉ body.drop 4 := hdrop ▸ hdata
  rcases hrange with ⟨-, hj⟩ | hj
  · have hj' : j < body.length := by omega
    rw [List.getElem?_append_left hj'] at hp
    rw [List.set_append_left _ _ hj']
    exact frameDecode_of_flipped_body (by omega) (by omega) he hk hp fun h4 => hnot (by omega) hj
  · obtain rfl : j = body.length + 1 := by omega
    have hb : lrcOf (body ++ [Config.etxByte]) = b := by simpa using hp
    subst hb
    have hset (x : Byte) : (body ++ [Config.etxByte, lrcOf (body ++ [Config.etxByte])]).set (body.length + 1) x =
        body ++ [Config.etxByte, x] := by simp
    rw [hset]
    exact frameDecode_of_wrong_lrc (by omega) (by omega) he (xor_twoPow_ne_self hk _).symm

/-- R137, R138, R139: without an ETX behind the header and before the last byte nothing is complete. -/
theorem frameDecode_of_no_etx {maxData : Nat} {buf : List Byte}
    (he : Config.etxByte ∉ (buf.drop 5).dropLast) :
    frameDecode maxData buf = .needMoreBytes ∨ ∃ drop, frameDecode maxData buf = .invalid drop := by
  have hs := frameDecode_shape maxData buf
  generalize frameDecode maxData buf = o at *
  cases hs with
  | empty => exact .inl rfl
  | short => exact .inl rfl
  | etxLast => exact .inl rfl
  | garbage => exact .inr ⟨_, rfl⟩
  | overlong => exact .inr ⟨_, rfl⟩
  | frame c0 c1 u0 u1 l d r => simp at he
  | checksumError c0 c1 u0 u1 l d r => simp at he

/-- R138: a buffer that begins with anything but STX is Invalid up to the first STX. -/
theorem frameDecode_of_not_stx (maxData : Nat) {x : Byte} (hx : x ≠ Config.stxByte) (s : List Byte) :
    frameDecode maxData (x :: s) = .invalid (1 + (s.takeWhile (fun y => y != Config.stxByte)).length) := by
  have hbuf : x :: s = (x :: s.takeWhile (fun y => y != Config.stxByte)) ++
      s.dropWhile (fun y => y != Config.stxByte) := by simp
  have hg : Config.stxByte ∉ x :: s.takeWhile (fun y => y != Config.stxByte) := by
    intro hmem
    rcases List.mem_cons.mp hmem with h | h
    · exact hx h.symm
    · simpa using List.mem_takeWhile_imp h
  have hr : s.dropWhile (fun y => y != Config.stxByte) = [] ∨
      (s.dropWhile (fun y => y != Config.stxByte)).head? = some Config.stxByte := by
    have hhead := List.head?_dropWhile_not (fun y => y != Config.stxByte) s
    cases hd : s.dropWhile (fun y => y != Config.stxByte) with
    | nil => exact .inl rfl
    | cons y t => exact .inr (by simpa [hd] using hhead)
  have := (DecodeShape.garbage (maxData := maxData) _ _ (List.cons_ne_nil _ _) hg hr).eq
  rw [← hbuf] at this
  rw [this, List.length_cons, Nat.add_comm]

/-- Settles O22: the byte that became ETX cuts the frame there; the destroyed ETX leaves none before the
checksum byte; the destroyed STX is garbage. -/
theorem singleBitFlipOfMarker : Obligations.SingleBitFlipOfMarker := by
  intro maxData cmd sub data f p k b hf hdata hk hp
  obtain ⟨hd, rfl⟩ := frameEncode_eq_some.mp hf
  have hb := xor_twoPow_ne_self hk b
  rw [frameBytes_eq] at hp ⊢
  generalize lrcOf (coveredBytes cmd sub data) = lrc at *
  refine ⟨fun h5 h4 h3 => ?cut, fun h => ?etx, fun h => ?stx⟩
  case cut =>
    rw [h3]
    obtain ⟨j, rfl⟩ := Nat.exists_eq_add_of_le' h5
    have hj : j < data.length := by omega
    obtain ⟨pre, x, post, rfl, rfl⟩ : ∃ pre x post, data = pre ++ x :: post ∧ j = pre.length :=
      ⟨data.take j, data[j], data.drop (j + 1), by simp, by simp; omega⟩
    obtain ⟨l, r, hlr⟩ : ∃ l r, post ++ [Config.etxByte, lrc] = l :: r := by
      cases post with
      | nil => exact ⟨_, _, rfl⟩
      | cons y post => exact ⟨_, _, rfl⟩
    have hbuf : Config.stxByte :: ([cmd.b0, cmd.b1, sub.b0, sub.b1] ++ (pre ++ x :: post) ++
        [Config.etxByte, lrc]) = Config.stxByte :: ([cmd.b0, cmd.b1, sub.b0, sub.b1] ++ pre ++ x :: l :: r) := by
      rw [← hlr]
      simp
    have hslice : slice (Config.stxByte :: ([cmd.b0, cmd.b1, sub.b0, sub.b1] ++ pre ++ x :: l :: r)) 1
        (pre.length + 5 - 1) = [cmd.b0, cmd.b1, sub.b0, sub.b1] ++ pre := by
      simpa using slice_append [Config.stxByte] ([cmd.b0, cmd.b1, sub.b0, sub.b1] ++ pre) (x :: l :: r) (by simp)
    have hset : (Config.stxByte :: ([cmd.b0, cmd.b1, sub.b0, sub.b1] ++ pre ++ x :: l :: r)).set (pre.length + 5)
        0x03#8 = Config.stxByte :: ([cmd.b0, cmd.b1, sub.b0, sub.b1] ++ pre ++ Config.etxByte :: l :: r) := by
      simp
    have hl : (Config.stxByte :: ([cmd.b0, cmd.b1, sub.b0, sub.b1] ++ pre ++ x :: l :: r))[pre.length + 5 + 1]? =
        some l := by simp
    rw [hbuf, hset, hl, hslice, decode_candidate_checks maxData _ _ _ _ l pre r (by simp at hd; omega)
      (fun h => hdata (by simp [h])), checkedAs]
    simp
  case etx =>
    subst h
    obtain rfl : b = Config.etxByte := by simpa [Nat.add_comm 5] using hp.symm
    apply frameDecode_of_no_etx
    simpa [Nat.add_comm 5] using ⟨hdata, hb.symm⟩
  case stx =>
    subst h
    obtain rfl : b = Config.stxByte := by simpa using hp.symm
    rw [List.set_cons_zero]
    exact frameDecode_of_not_stx maxData hb _

end Sys2Proof.Proofs
end

section
/-! Proofs about records (30_encoding.md): the round trip of the rows, and what the decoder yields. -/

namespace Sys2Proof.Proofs

open Sys2Proof Sys2Proof.Machine Sys2Proof.Laws

/-! ## Reading a row back -/

/-- A reader that answers hands its value on. -/
theorem ok_bind {α β : Type} (a : α) (f : α → Except DecodeError β) : (Except.ok a >>= f) = f a := rfl

/-- The operands of ENC are read back. -/
theorem takeEnc_encode (cmd sub : Field2) (data tail : List Byte) :
    takeEnc (cmd.toList ++ sub.toList ++ encodeSeq data ++ tail) = .ok (.enc cmd sub data, tail) := by
  simp only [takeEnc, List.append_assoc, takeField2_toList, takeSeq_encodeSeq, ok_bind]
  rfl

/-- The operands of WR.REQ are read back. -/
theorem takeWrReq_encode (r : Nat) (cmd sub : Field2) (data tail : List Byte) :
    takeWrReq (encodeCount r ++ cmd.toList ++ sub.toList ++ encodeSeq data ++ tail) =
      .ok (.wrReq r cmd sub data, tail) := by
  simp only [takeWrReq, List.append_assoc, takeCount_encodeCount, takeField2_toList, takeSeq_encodeSeq, ok_bind]
  rfl

/-- The operand of DEC is read back. -/
theorem decodeOp5_dec (buf tail : List Byte) :
    decodeOp5 (encode (.dec buf) ++ tail) = .ok (.dec buf, tail) := by
  simp only [encode, List.cons_append, decodeOp5, takeSeq_encodeSeq]
  rfl

/-- Settles O53: row by row; the rows with operands of any length by the readers, an OTHER byte by its being no
marker, the others by their own bytes. -/
theorem decodeOfEncodeIsTheRow : Obligations.DecodeOfEncodeIsTheRow := by
  intro i tail hw
  cases i with
  | enc cmd sub data => exact takeEnc_encode cmd sub data tail
  | wrReq r cmd sub data => exact takeWrReq_encode r cmd sub data tail
  | dec buf => exact decodeOp5_dec buf tail
  | linkOpen ok => cases ok <;> rfl
  | other b =>
    simp only [Instr.wf, Bool.and_eq_true, bne_iff_ne] at hw
    simp only [Instr.format, encode, decodeRecord, List.singleton_append, decodeByte8, if_neg hw.1, if_neg hw.2]
  | _ => rfl

/-! ## What the decoder yields -/

/-- A computation in two parts answers only if both do. -/
theorem exists_of_bind_eq_ok {α β : Type} {x : Except DecodeError α} {f : α → Except DecodeError β} {b : β}
    (h : (x >>= f) = .ok b) : ∃ a, x = .ok a ∧ f a = .ok b := by
  cases x with
  | error e => cases h
  | ok a => exact ⟨a, rfl, h⟩

/-- R120. -/
theorem takeEnc_yields {bs tail : List Byte} {i : Instr} (h : takeEnc bs = .ok (i, tail)) :
    ∃ cmd sub data, i = .enc cmd sub data := by
  obtain ⟨⟨cmd, _⟩, -, h⟩ := exists_of_bind_eq_ok h
  obtain ⟨⟨sub, _⟩, -, h⟩ := exists_of_bind_eq_ok h
  obtain ⟨⟨data, _⟩, -, h⟩ := exists_of_bind_eq_ok h
  cases h
  exact ⟨cmd, sub, data, rfl⟩

/-- R180. -/
theorem takeWrReq_yields {bs tail : List Byte} {i : Instr} (h : takeWrReq bs = .ok (i, tail)) :
    ∃ r cmd sub data, i = .wrReq r cmd sub data := by
  obtain ⟨⟨r, _⟩, -, h⟩ := exists_of_bind_eq_ok h
  obtain ⟨⟨cmd, _⟩, -, h⟩ := exists_of_bind_eq_ok h
  obtain ⟨⟨sub, _⟩, -, h⟩ := exists_of_bind_eq_ok h
  obtain ⟨⟨data, _⟩, -, h⟩ := exists_of_bind_eq_ok h
  cases h
  exact ⟨r, cmd, sub, data, rfl⟩

/-- The rows of format OP5 are well formed whatever their operands. -/
theorem wf_of_format_op5 {i : Instr} (h : i.format = .op5) : i.wf = true := by
  cases i with
  | other b => cases h
  | _ => rfl

/-- R96: an OPX record yields an operation. -/
theorem decodeOp5_yields {bs tail : List Byte} {i : Instr} (h : decodeOp5 bs = .ok (i, tail)) :
    i.format = .op5 := by
  unfold decodeOp5 at h
  split at h
  · cases h
  · split at h
    case h_4 => obtain ⟨_, _, _, rfl⟩ := takeEnc_yields h; rfl
    case h_12 => obtain ⟨_, _, _, _, rfl⟩ := takeWrReq_yields h; rfl
    case h_2 | h_6 | h_7 | h_9 => obtain ⟨_, -, h⟩ := exists_of_bind_eq_ok h; cases h; rfl
    all_goals cases h
    all_goals rfl

/-- R84: OTHER is tried last, so it is neither marker. -/
theorem decodeByte8_yields {bs tail : List Byte} {i : Instr} (h : decodeByte8 bs = .ok (i, tail)) :
    i.wf = true ∧ i.format = .byte8 := by
  unfold decodeByte8 at h
  repeat' split at h
  all_goals cases h
  · exact ⟨rfl, rfl⟩
  · exact ⟨rfl, rfl⟩
  · rename_i hstx hetx
    exact ⟨by simp [Instr.wf, hstx, hetx], rfl⟩

/-- R90: each of the ten rows of the header table is a header. -/
theorem headerRows_yield : ∀ row ∈ headerRows, row.1.wf = true ∧ row.1.format = .hdr40 := by decide

/-- R90. -/
theorem decodeHdr40_yields {bs tail : List Byte} {i : Instr} (h : decodeHdr40 bs = .ok (i, tail)) :
    i.wf = true ∧ i.format = .hdr40 := by
  unfold decodeHdr40 at h
  split at h
  · rename_i row hrow
    cases h
    exact headerRows_yield row (List.mem_of_find?_eq_some hrow)
  · cases h

/-- Settles O54: format by format. -/
theorem decodedRecordsAreWellFormed : Obligations.DecodedRecordsAreWellFormed := by
  intro fmt bytes tail i h
  cases fmt with
  | op5 => exact ⟨wf_of_format_op5 (decodeOp5_yields h), decodeOp5_yields h⟩
  | byte8 => exact decodeByte8_yields h
  | hdr40 => exact decodeHdr40_yields h
  | frame56 =>
    simp only [decodeRecord, decodeFrame56] at h
    repeat' split at h
    all_goals cases h
    exact ⟨rfl, rfl⟩
  | frame64 =>
    simp only [decodeRecord, decodeFrame64] at h
    repeat' split at h
    all_goals cases h
    exact ⟨rfl, rfl⟩

/-- Settles O55: each word is read by evaluation. -/
theorem sampleRecordsDecode : Obligations.SampleRecordsDecode := by
  unfold Obligations.SampleRecordsDecode
  decide

end Sys2Proof.Proofs
end

section
/-! Proofs about the encoded frame and its emission (41_frame_encode.md): the layout, and that a write sends
exactly its frame. -/

namespace Sys2Proof.Proofs

open Sys2Proof Sys2Proof.Machine Sys2Proof.Laws

/-! ## Layout -/

/-- R123 E2: the covered bytes stand at offsets 1 to `5 + L`. -/
theorem slice_frameBytes_covered (cmd sub : Field2) (data : List Byte) :
    slice (frameBytes cmd sub data) 1 (5 + data.length) = coveredBytes cmd sub data := by
  have h := slice_append [Config.stxByte] (coveredBytes cmd sub data) [lrcOf (coveredBytes cmd sub data)]
    (by simp [coveredBytes])
  have hlen : [Config.stxByte].length + (coveredBytes cmd sub data).length - 1 = 5 + data.length := by
    simp [coveredBytes, Field2.toList]; omega
  rwa [hlen] at h

/-- R123 E4: a frame determines its fields. -/
theorem frameBytes_injective {c1 c2 u1 u2 : Field2} {d1 d2 : List Byte}
    (h : frameBytes c1 u1 d1 = frameBytes c2 u2 d2) : c1 = c2 ∧ u1 = u2 ∧ d1 = d2 := by
  have hlen : d1.length = d2.length := by
    simpa [length_frameBytes] using congrArg List.length h
  have hcov : coveredBytes c1 u1 d1 = coveredBytes c2 u2 d2 := by
    rw [← slice_frameBytes_covered, ← slice_frameBytes_covered, h, hlen]
  obtain ⟨c10, c11⟩ := c1
  obtain ⟨c20, c21⟩ := c2
  obtain ⟨u10, u11⟩ := u1
  obtain ⟨u20, u21⟩ := u2
  simp only [coveredBytes_eq, List.cons_append, List.nil_append, List.cons.injEq, List.append_cancel_right_eq] at hcov
  obtain ⟨rfl, rfl, rfl, rfl, rfl⟩ := hcov
  exact ⟨rfl, rfl, rfl⟩

/-- Settles O8: E1 and E2 are read off the bytes, E3 is the checksum cancelling itself, E4 is injectivity. -/
theorem encodeLayoutAndInjectivity : Obligations.EncodeLayoutAndInjectivity := by
  constructor
  · intro maxData cmd sub data f hf
    obtain ⟨hd, rfl⟩ := frameEncode_eq_some.mp hf
    have hzero : lrcOf ((frameBytes cmd sub data).drop 1) = 0x00#8 := by
      simp [frameBytes, lrcOf_append, lrcOf_singleton]
    rw [slice_frameBytes_covered, length_frameBytes]
    refine ⟨rfl, Nat.add_le_add_right hd 7, rfl, rfl, rfl, ?_, ?_, ?_, hzero⟩
    · simp [frameBytes_eq]
    · simp [frameBytes_eq, Nat.add_comm 5]
    · simp [frameBytes_eq, Nat.add_comm 6]
  · intro maxData c1 c2 u1 u2 d1 d2 f h1 h2
    obtain ⟨-, rfl⟩ := frameEncode_eq_some.mp h1
    obtain ⟨-, h⟩ := frameEncode_eq_some.mp h2
    exact frameBytes_injective h.symm

/-! ## EncByte and the checksum of the bytes already out -/

/-- R125: EncByte is the byte of the frame. -/
theorem getElem?_frameBytes (q : Request) {idx : Nat} (h : idx < q.data.length + 7) :
    (frameBytes q.cmd q.sub q.data)[idx]? = some (encByte q idx) := by
  rw [frameBytes_eq]
  match idx with
  | 0 => rfl
  | 1 => rfl
  | 2 => rfl
  | 3 => rfl
  | 4 => rfl
  | i + 5 =>
    have hdrop : (Config.stxByte :: ([q.cmd.b0, q.cmd.b1, q.sub.b0, q.sub.b1] ++ q.data ++
        [Config.etxByte, lrcOf (coveredBytes q.cmd q.sub q.data)]))[i + 5]? =
        (q.data ++ [Config.etxByte, lrcOf (coveredBytes q.cmd q.sub q.data)])[i]? := by simp
    rw [hdrop, encByte, frameByte_add_hdrLen]
    obtain hi | rfl | rfl : i < q.data.length ∨ i = q.data.length ∨ i = q.data.length + 1 := by omega
    · simp [hi, List.getElem?_append_left hi]
    · simp
    · simp

/-- R124: only the last byte is read from the register. -/
theorem frameByte_congr (q : Request) (a b : Byte) {idx : Nat} (h : idx < q.data.length + 6) :
    frameByte q a idx = frameByte q b idx := by
  match idx with
  | 0 => rfl
  | 1 => rfl
  | 2 => rfl
  | 3 => rfl
  | 4 => rfl
  | i + 5 =>
    have hi : i < q.data.length ∨ i = q.data.length := by omega
    rw [frameByte_add_hdrLen, frameByte_add_hdrLen]
    rcases hi with hi | rfl
    · simp [hi]
    · simp

/-- R28 I5 at the start: STX is not covered. -/
theorem emittedLrc_of_le_one (q : Request) {idx : Nat} (h : idx ≤ 1) : emittedLrc q idx = 0x00#8 := by
  have hnil : ((frameBytes q.cmd q.sub q.data).take (min idx (q.data.length + 6))).drop 1 = [] :=
    List.drop_eq_nil_of_le (by rw [List.length_take]; omega)
  rw [emittedLrc, hnil, lrcOf_nil]

/-- R28 I5 with every covered byte out. -/
theorem emittedLrc_of_le (q : Request) {idx : Nat} (h : q.data.length + 6 ≤ idx) :
    emittedLrc q idx = lrcOf (coveredBytes q.cmd q.sub q.data) := by
  rw [emittedLrc, Nat.min_eq_right h, ← slice_frameBytes_covered, slice,
    show 5 + q.data.length + 1 = q.data.length + 6 by omega]

/-- R28 I5: one more covered byte out is one LRC.UPD. -/
theorem emittedLrc_succ (q : Request) {idx : Nat} (h1 : 1 ≤ idx) (h2 : idx ≤ 5 + q.data.length) :
    emittedLrc q (idx + 1) = emittedLrc q idx ^^^ encByte q idx := by
  have hget := getElem?_frameBytes q (idx := idx) (by omega)
  rw [emittedLrc, emittedLrc, Nat.min_eq_left (by omega), Nat.min_eq_left (by omega), List.take_add_one, hget,
    List.drop_append_of_le_length (by simp [length_frameBytes]; omega), lrcOf_append]
  simp [lrcOf_singleton]

/-- R126: with the register as I5 says, the byte that goes out is EncByte. -/
theorem frameByte_emittedLrc (q : Request) (idx : Nat) :
    frameByte q (emittedLrc q idx) idx = encByte q idx := by
  by_cases h : idx < q.data.length + 6
  · exact frameByte_congr q _ _ h
  · rw [emittedLrc_of_le q (Nat.le_of_not_lt h), encByte]

/-- R124 under I5: the byte sent is the frame's, and I5 holds again behind it. -/
theorem emitNextByte_of_emittedLrc {a : Active} {s : State} (hi : a.idx < frameLength a.req)
    (hlrc : s.lrcTx = emittedLrc a.req a.idx) :
    emitNextByte a s = { s with
      txLog := s.txLog ++ [encByte a.req a.idx]
      lrcTx := emittedLrc a.req (a.idx + 1)
      cur := some { a with idx := a.idx + 1 } } := by
  rw [emitNextByte_eq, hlrc, frameByte_emittedLrc]
  congr 1
  by_cases h : 1 ≤ a.idx ∧ a.idx ≤ 5 + a.req.data.length
  · rw [if_pos h, emittedLrc_succ _ h.1 h.2]
  · rw [if_neg h]
    have hi : a.idx < a.req.data.length + 7 := hi
    obtain h0 | h6 : a.idx = 0 ∨ a.idx = a.req.data.length + 6 := by omega
    · rw [h0, emittedLrc_of_le_one _ (by omega), emittedLrc_of_le_one _ (by omega)]
    · rw [emittedLrc_of_le _ (by omega), emittedLrc_of_le _ (by omega)]

/-- Settles O10: I4 makes the request encode, I5 makes the byte EncByte. -/
theorem txEmitSendsEncodedByte : Obligations.TxEmitSendsEncodedByte := by
  intro s t q idx hinv hcur h
  obtain ⟨hd, -, hlrc⟩ := hinv.writing _ hcur
  cases exec_next h with
  | txEmit _ a hl hc hi =>
    obtain rfl : a = { req := q, idx := idx } := Option.some.inj (hc.symm.trans hcur)
    refine ⟨_, _, frameEncode_eq_some.mpr ⟨hd, rfl⟩, getElem?_frameBytes q hi, rfl, ?_⟩
    rw [emitNextByte_of_emittedLrc hi hlrc]
    rfl
  | wire _ bs _ hf => exact absurd rfl hf

/-! ## A whole write -/

/-- R126: `n` bytes more of the frame, from a write that has `idx` out. -/
theorem runOps_txEmit {s : State} {q : Request} {idx n : Nat} {ops : List Instr} (hl : s.link = .opened)
    (hc : s.cur = some { req := q, idx := idx }) (hlrc : s.lrcTx = emittedLrc q idx) (hr : s.result = none)
    (hn : idx + n ≤ q.data.length + 7) :
    runOps (List.replicate n .txEmit ++ ops) s = runOps ops { s with
      txLog := s.txLog ++ ((frameBytes q.cmd q.sub q.data).drop idx).take n
      lrcTx := emittedLrc q (idx + n)
      cur := some { req := q, idx := idx + n } } := by
  induction n generalizing s idx with
  | zero => simp [← hc, ← hlrc]
  | succ n ih =>
    have hi : idx < q.data.length + 7 := by omega
    have hexec := exec_txEmit_of_lt hl hc hi
    rw [emitNextByte_of_emittedLrc hi hlrc] at hexec
    have htake : ((frameBytes q.cmd q.sub q.data).drop idx).take (n + 1) =
        encByte q idx :: ((frameBytes q.cmd q.sub q.data).drop (idx + 1)).take n := by
      obtain ⟨hlt, hget⟩ := List.getElem?_eq_some_iff.mp (getElem?_frameBytes q hi)
      rw [List.drop_eq_getElem_cons hlt, List.take_succ_cons, hget]
    simp only [List.replicate_succ, List.cons_append, runOps, hexec]
    rw [ih (idx := idx + 1) (by simpa using hl) rfl rfl rfl (by omega), htake,
      show idx + 1 + n = idx + (n + 1) by omega]
    simp only [setResult, ← hr, List.append_assoc, List.singleton_append]

/-- Settles O11: WR.GRANT starts at index 0 with I5, `L + 7` bytes are the whole frame, WR.DONE completes. -/
theorem uninterruptedWriteSendsItsFrame : Obligations.UninterruptedWriteSendsItsFrame := by
  intro s q rest f hl hc hw hf
  obtain ⟨-, rfl⟩ := frameEncode_eq_some.mp hf
  have hgrant := exec_wrGrant_of_cons hl hc hw
  rw [slice_frameBytes_covered]
  simp only [runOps, hgrant]
  rw [runOps_txEmit (idx := 0) (q := q) (by simpa using hl) rfl
    (by simp [emittedLrc_of_le_one]) rfl (by omega), Nat.zero_add, emittedLrc_of_le _ (by omega)]
  have hfull : ((frameBytes q.cmd q.sub q.data).drop 0).take (q.data.length + 7) =
      frameBytes q.cmd q.sub q.data := by
    rw [List.drop_zero, List.take_of_length_le (by rw [length_frameBytes])]
  simp only [hfull, runOps]
  rw [exec_wrDone_of_eq rfl rfl]
  simp only [setResult, endWrite, complete, clearLrcTx, startWrite, frameLength, Config.frameOverhead, hc]

end Sys2Proof.Proofs
end

section
/-! Proofs about what every instruction keeps (44_transport_arbiter.md section 4, 20_memory.md section 5): the
control state, the queue, the write in progress, the two sides of the block. Each is read off `ExecNext`. -/

namespace Sys2Proof.Proofs

open Sys2Proof Sys2Proof.Machine Sys2Proof.Laws

/-! ## The receiver's frame, field by field -/

@[simp] theorem receive_link (bs : List Byte) (s : State) : (receive bs s).link = s.link := by
  rw [receive_frame]

@[simp] theorem receive_lrcTx (bs : List Byte) (s : State) : (receive bs s).lrcTx = s.lrcTx := by
  rw [receive_frame]

@[simp] theorem receive_wq (bs : List Byte) (s : State) : (receive bs s).wq = s.wq := by
  rw [receive_frame]

@[simp] theorem receive_cur (bs : List Byte) (s : State) : (receive bs s).cur = s.cur := by
  rw [receive_frame]

@[simp] theorem receive_lrc (bs : List Byte) (s : State) : (receive bs s).lrc = s.lrc := by
  rw [receive_frame]

@[simp] theorem receive_txLog (bs : List Byte) (s : State) : (receive bs s).txLog = s.txLog := by
  rw [receive_frame]

@[simp] theorem receive_doneLog (bs : List Byte) (s : State) : (receive bs s).doneLog = s.doneLog := by
  rw [receive_frame]

@[simp] theorem receive_params (bs : List Byte) (s : State) : (receive bs s).params = s.params := by
  rw [receive_frame]

/-- R155, R251: while Closed nothing reaches the block. -/
theorem receive_of_closed {s : State} (hl : s.link = .closed) (bs : List Byte) : receive bs s = s := by
  simp only [receive, hl]

/-- The wire rows bring at least one byte, the same in every state (R84, R90, R80). -/
theorem exec_of_wire {i : Instr} (hf : i.format ≠ .op5) :
    ∃ bs, bs ≠ [] ∧ ∀ s, exec i s = .next (setResult none (receive bs s)) := by
  cases i with
  | stx | etx | other | hdrMcDc | hdrRqId | hdrRqIw | hdrMcLz | hdrRqMi | hdrRqEr | hdrMcEz | hdrMcWp
  | hdrMcPd | hdrMcRt | frameL0 | frameL1 => exact ⟨_, List.cons_ne_nil _ _, fun _ => rfl⟩
  | _ => exact absurd rfl hf

/-! ## The control state (R176) -/

/-- R176. -/
theorem controlState_of_closed {s : State} (hl : s.link = .closed) : controlState s = .closed := by
  simp [controlState, hl]

/-- R176. -/
theorem controlState_of_idle {s : State} (hl : s.link = .opened) (hc : s.cur = none) :
    controlState s = .idle := by
  simp [controlState, txBusy, hl, hc]

/-- R176. -/
theorem controlState_of_busy {s : State} {a : Active} (hl : s.link = .opened) (hc : s.cur = some a) :
    controlState s = .busy := by
  simp [controlState, txBusy, hl, hc]

/-- R176: it is a function of the link and of `cur`. -/
theorem controlState_congr {s t : State} (hl : t.link = s.link) (hc : t.cur = s.cur) :
    controlState t = controlState s := by
  cases hs : s.link with
  | closed => rw [controlState_of_closed hs, controlState_of_closed (hl.trans hs)]
  | opened =>
    cases hcs : s.cur with
    | none => rw [controlState_of_idle hs hcs, controlState_of_idle (hl.trans hs) (hc.trans hcs)]
    | some a => rw [controlState_of_busy hs hcs, controlState_of_busy (hl.trans hs) (hc.trans hcs)]

/-- A write in progress means that the link is Open (I2). -/
theorem opened_of_cur {s : State} {a : Active} (hinv : Invariants s) (hc : s.cur = some a) :
    s.link = .opened := by
  cases hl : s.link with
  | opened => rfl
  | closed =>
    obtain ⟨-, hnone, -⟩ := hinv.closedEmpty hl
    simp [hnone] at hc

/-- Settles O37: the five operations one by one; every other instruction leaves the link and `cur`. -/
theorem controlStateTransitions : Obligations.ControlStateTransitions := by
  intro i s t hinv h
  cases exec_next h with
  | txEmit _ a hl hc hi =>
    rw [emitNextByte_eq, controlState_of_busy hl hc]
    exact .inl (controlState_of_busy hl rfl)
  | linkOpen _ hl => exact .inr (.inl ⟨rfl, controlState_of_closed hl, rfl⟩)
  | linkClose => exact .inr (.inr (.inl ⟨.inl rfl, rfl⟩))
  | linkTerr => exact .inr (.inr (.inl ⟨.inr rfl, rfl⟩))
  | wrGrant _ q rest hl hc =>
    exact .inr (.inr (.inr (.inl ⟨rfl, controlState_of_idle hl hc, controlState_of_busy hl rfl⟩)))
  | wrDone _ a hc =>
    have hl := opened_of_cur hinv hc
    exact .inr (.inr (.inr (.inr ⟨rfl, controlState_of_busy hl hc, controlState_of_idle hl rfl⟩)))
  | accStep => exact .inl (controlState_congr (by simp) (by simp))
  | wire => exact .inl (controlState_congr (by simp) (by simp))
  | _ => exact .inl (controlState_congr rfl rfl)

/-! ## The queue and the write in progress -/

/-- R185 (b): who changes the queue. -/
theorem exec_wq {i : Instr} {s t : State} (h : exec i s = .next t) :
    t.wq = s.wq ∨
    (∃ q, i = .wrReq q.r q.cmd q.sub q.data ∧ t.wq = s.wq ++ [q]) ∨
    (∃ q, i = .wrGrant ∧ s.wq = q :: t.wq ∧ t.cur = some { req := q, idx := 0 }) ∨
    (t.wq = [] ∧ (i = .linkClose ∨ i = .linkTerr ∨ i = .linkOpen true)) := by
  cases exec_next h with
  | txEmit => rw [emitNextByte_eq]; exact .inl rfl
  | wrReqQueued r cmd sub data => exact .inr (.inl ⟨_, rfl, rfl⟩)
  | wrGrant _ q rest hl hc hw => exact .inr (.inr (.inl ⟨q, rfl, hw, rfl⟩))
  | linkOpen => exact .inr (.inr (.inr ⟨rfl, .inr (.inr rfl)⟩))
  | linkClose => exact .inr (.inr (.inr ⟨rfl, .inl rfl⟩))
  | linkTerr => exact .inr (.inr (.inr ⟨rfl, .inr (.inl rfl)⟩))
  | accStep => exact .inl (by simp)
  | wire => exact .inl (by simp)
  | _ => exact .inl rfl

/-- R25, R300 (c): requesters are distinct and below `NREQ`, so there are at most `NREQ`. -/
theorem length_outstanding_le {s : State} (hinv : Invariants s) : (outstanding s).length ≤ s.params.nreq := by
  have hsub : outstanding s ⊆ List.range s.params.nreq := fun r hr => List.mem_range.mpr (hinv.ports r hr)
  simpa using (List.subperm_of_subset hinv.distinct hsub).length_le

/-- Settles O38: FIFO by instruction, then the counts. -/
theorem queueIsFirstInFirstOut : Obligations.QueueIsFirstInFirstOut := by
  refine ⟨fun _ _ _ => exec_wq, fun s hinv => ?_⟩
  have hlen := length_outstanding_le hinv
  refine ⟨hlen, fun before r behind h => ?_, fun q hq => Nat.add_le_add_right (hinv.queuedData q hq) 7,
    fun a ha => ?_⟩
  · simp [h] at hlen
    omega
  · obtain ⟨hd, -⟩ := hinv.writing a ha
    exact Nat.add_le_add_right hd 7

/-- Settles O39: by instruction; WR.GRANT needs `cur = none`. -/
theorem writeInProgressIsImmutable : Obligations.WriteInProgressIsImmutable := by
  intro i s t a h hcur
  cases exec_next h with
  | txEmit _ b hl hc =>
    obtain rfl : b = a := Option.some.inj (hc.symm.trans hcur)
    rw [emitNextByte_eq]
    exact .inr (.inl ⟨rfl, rfl⟩)
  | wrGrant _ q rest hl hc => cases hc.symm.trans hcur
  | wrDone => exact .inr (.inr ⟨rfl, .inl rfl⟩)
  | linkClose => exact .inr (.inr ⟨rfl, .inr (.inl rfl)⟩)
  | linkTerr => exact .inr (.inr ⟨rfl, .inr (.inr (.inl rfl))⟩)
  | linkOpen => exact .inr (.inr ⟨rfl, .inr (.inr (.inr rfl))⟩)
  | accStep => exact .inl (by simpa using hcur)
  | wire => exact .inl (by simpa using hcur)
  | _ => exact .inl hcur

/-! ## Completions (R183) -/

/-- The statuses that end a request once it is queued (R183): all but FrameTooLarge. -/
def EndsQueued (st : Status) : Prop := (∃ k, st = .ok (some k)) ∨ st = .linkClosed ∨ st = .transportError

/-- A status that ends a queued request is a write status. -/
theorem EndsQueued.isWriteStatus {st : Status} (h : EndsQueued st) : isWriteStatus st := by
  rcases h with h | h | h
  · exact .inl h
  · exact .inr (.inr (.inl h))
  · exact .inr (.inr (.inr h))

/-- The requests of the block: the writer's and the queued ones. -/
def requests (s : State) : List Request := s.cur.toList.map Active.req ++ s.wq

/-- R26: how far a write has got is nothing of its request. -/
theorem requests_congr {s t : State} (hc : t.cur.map Active.req = s.cur.map Active.req) (hw : t.wq = s.wq) :
    requests t = requests s := by
  have hmap : ∀ o : Option Active, o.toList.map Active.req = (o.map Active.req).toList := by
    intro o; cases o <;> rfl
  rw [requests, requests, hmap, hmap, hc, hw]

/-- R27: the requesters outstanding are those of the requests. -/
theorem outstanding_eq (s : State) : outstanding s = (requests s).map Request.r := by
  simp [outstanding, requests, Function.comp_def]

/-- R27: the requesters outstanding depend on the requests alone. -/
theorem outstanding_congr {s t : State} (hc : t.cur.map Active.req = s.cur.map Active.req) (hw : t.wq = s.wq) :
    outstanding t = outstanding s := by
  rw [outstanding_eq, outstanding_eq, requests_congr hc hw]

/-- R180: who may ask. -/
theorem exec_requested {i : Instr} {s t : State} (h : exec i s = .next t) :
    (requested i).Nodup ∧ ∀ r ∈ requested i, r < s.params.nreq ∧ r ∉ outstanding s := by
  cases i with
  | wrReq r cmd sub data =>
    have henabled := enabled_wrReq_iff.mp ⟨t, h⟩
    simpa [requested] using henabled
  | _ => simp [requested]

/-- R180: the wire rows ask for nothing. -/
theorem requested_of_wire {i : Instr} (hf : i.format ≠ .op5) : requested i = [] := by
  cases i with
  | wrReq => exact absurd rfl hf
  | _ => rfl

/-- R183, the account of one instruction: `new` is what it adds to `done_log`, and a completed requester is
outstanding no longer. -/
structure Completes (i : Instr) (s t : State) (new : List (Nat × Status)) : Prop where
  grows : t.doneLog = s.doneLog ++ new
  once : (new.map Prod.fst ++ outstanding t).Perm (outstanding s ++ requested i)
  statuses : ∀ c ∈ new, EndsQueued c.2 ∨ c.2 = .frameTooLarge ∧ c.1 ∉ outstanding s

/-- R183: an instruction that asks for nothing and leaves the requests alone completes nobody. -/
theorem completes_nobody {i : Instr} {s t : State} (hd : t.doneLog = s.doneLog)
    (hc : t.cur.map Active.req = s.cur.map Active.req) (hw : t.wq = s.wq) (hr : requested i = []) :
    Completes i s t [] :=
  ⟨by simp [hd], by simp [hr, outstanding_congr hc hw], by simp⟩

/-- R178, R179: the closure completes everybody. -/
theorem completes_closeLink {i : Instr} {s t : State} {st : Status} (hst : EndsQueued st)
    (hd : t.doneLog = (closeLink st s).doneLog) (hc : t.cur = none) (hw : t.wq = []) (hr : requested i = []) :
    Completes i s t
      (s.cur.toList.map (fun a => (a.req.r, st)) ++ s.wq.map (fun q => (q.r, .linkClosed))) := by
  refine ⟨by simp [hd], by simp [outstanding, hr, hc, hw, Function.comp_def], fun c hmem => .inl ?_⟩
  simp only [List.mem_append, List.mem_map] at hmem
  rcases hmem with ⟨a, -, rfl⟩ | ⟨q, -, rfl⟩
  · exact hst
  · exact .inr (.inl rfl)

/-- R183, over every instruction. -/
theorem exec_completes {i : Instr} {s t : State} (hinv : Invariants s) (h : exec i s = .next t) :
    ∃ new, Completes i s t new := by
  cases exec_next h with
  | txEmit _ a hl hc =>
    rw [emitNextByte_eq]
    exact ⟨_, completes_nobody rfl (by simp [hc]) rfl rfl⟩
  | accStep => exact ⟨_, completes_nobody (by simp) (by simp) (by simp) rfl⟩
  | wire _ bs _ hf => exact ⟨_, completes_nobody (by simp) (by simp) (by simp) (requested_of_wire hf)⟩
  | linkOpen _ hl =>
    obtain ⟨hw, hc, -⟩ := hinv.closedEmpty hl
    exact ⟨_, completes_nobody rfl (by simp [hc]) hw.symm rfl⟩
  | linkClose => exact ⟨_, completes_closeLink (.inr (.inl rfl)) rfl rfl rfl rfl⟩
  | linkTerr => exact ⟨_, completes_closeLink (.inr (.inr rfl)) rfl rfl rfl rfl⟩
  | wrReqCompleted r cmd sub data _ st hr ho hst =>
    refine ⟨[(r, st)], rfl, List.perm_append_comm (l₁ := [r]), fun c hc => ?_⟩
    obtain rfl := List.mem_singleton.mp hc
    rcases hst with rfl | rfl
    · exact .inr ⟨rfl, ho⟩
    · exact .inl (.inr (.inl rfl))
  | wrReqQueued r cmd sub data => exact ⟨[], by simp, by simp [outstanding, requested], by simp⟩
  | wrGrant _ q rest hl hc hw => exact ⟨[], by simp, by simp [outstanding, requested, hc, hw], by simp⟩
  | wrDone _ a hc =>
    refine ⟨[(a.req.r, _)], rfl, by simp [outstanding, requested, hc], fun c hc => ?_⟩
    obtain rfl := List.mem_singleton.mp hc
    exact .inl (.inl ⟨_, rfl⟩)
  | _ => exact ⟨_, completes_nobody rfl rfl rfl rfl⟩

/-- Settles O40: the account of `exec_completes`. -/
theorem everyRequestCompletesOnce : Obligations.EveryRequestCompletesOnce := by
  intro i s t hinv h
  obtain ⟨new, hc⟩ := exec_completes hinv h
  exact ⟨new, hc.grows, hc.once⟩

/-! ## Registers and results -/

/-- Settles O43: each operation that drives a register is excluded by its clause. -/
theorem lrcRegistersHaveTheirDrivers : Obligations.LrcRegistersHaveTheirDrivers := by
  intro i s t h
  cases exec_next h with
  | lrcClr => exact ⟨fun _ _ => rfl, fun h _ => absurd rfl h⟩
  | lrcUpd b => exact ⟨fun _ _ => rfl, fun _ h => absurd rfl (h b)⟩
  | txEmit => rw [emitNextByte_eq]; exact ⟨fun _ h => absurd rfl h, fun _ _ => rfl⟩
  | wrGrant => exact ⟨fun h _ => absurd rfl h, fun _ _ => rfl⟩
  | accStep => exact ⟨fun _ _ => by simp, fun _ _ => by simp⟩
  | wire => exact ⟨fun _ _ => by simp, fun _ _ => by simp⟩
  | _ => exact ⟨fun _ _ => rfl, fun _ _ => rfl⟩

/-- Settles O44: every next state is `setResult` of something, with a result in the four operations. -/
theorem fourOperationsHandOverAResult : Obligations.FourOperationsHandOverAResult := by
  intro i s t h
  cases exec_next h with
  | wire _ bs _ hf =>
    refine iff_of_false (by simp) ?_
    rintro (rfl | ⟨cmd, sub, data, rfl⟩ | ⟨buf, rfl⟩ | ⟨ok, rfl⟩) <;> exact hf rfl
  | _ => simp

/-! ## A Closed link (R186) -/

/-- Settles O42: the six refusals; then the instructions that do answer while Closed. -/
theorem closedLinkAdmitsNoTraffic : Obligations.ClosedLinkAdmitsNoTraffic := by
  intro s hinv hl
  obtain ⟨hw, hc, ha⟩ := hinv.closedEmpty hl
  refine ⟨?_, fun i t h => ?_⟩
  · rintro i (⟨b, rfl⟩ | rfl | rfl | rfl | rfl | rfl)
    · exact ⟨_, exec_rxPush_of_closed hl⟩
    · exact ⟨_, exec_accStep_of_closed hl⟩
    · exact ⟨_, exec_wrGrant_of_closed hl⟩
    · exact ⟨_, exec_txEmit_of_closed hl⟩
    · exact ⟨_, exec_wrDone_of_none hc⟩
    · exact ⟨_, exec_linkTerr_of_closed hl⟩
  · have stays : t.txLog = s.txLog ∧ t.rxLog = s.rxLog ∧ t.frameLog = s.frameLog ∧ t.diagLog = s.diagLog ∧
        t.wq = s.wq ∧ t.cur = s.cur ∧ t.acc = s.acc := by
      cases exec_next h with
      | wire _ bs => rw [receive_of_closed hl]; exact ⟨rfl, rfl, rfl, rfl, rfl, rfl, rfl⟩
      | linkOpen => exact ⟨rfl, rfl, rfl, rfl, hw.symm, hc.symm, ha.symm⟩
      | wrDone _ a hc' => cases hc.symm.trans hc'
      | txEmit _ _ hl' | rxPush _ _ hl' | accStep _ _ _ hl' | linkClose _ hl' | linkTerr _ hl'
      | wrReqQueued _ _ _ _ _ _ _ _ hl' | wrGrant _ _ _ hl' => cases hl.symm.trans hl'
      | _ => exact ⟨rfl, rfl, rfl, rfl, rfl, rfl, rfl⟩
    rwa [hw, hc, ha] at stays

end Sys2Proof.Proofs
end

section
/-! Proofs about the accumulator as a function of the stream (43_accumulator.md section 3, 30_encoding.md): what
each byte does, the rows of the table, chunking and resynchronisation. -/

namespace Sys2Proof.Proofs

open Sys2Proof Sys2Proof.Machine Sys2Proof.Laws

/-- Settles O25: the loop has as many steps as bytes (R162); the bounds are those of NeedMoreBytes (R164). -/
theorem decodeLoopEndsQuiescent : Obligations.DecodeLoopEndsQuiescent := by
  refine ⟨fun s => ?_, fun s hq => ?_⟩
  · rw [quiescent_iff, drainSteps_eq]
    exact drainSeq_ends s.params.maxData _ s.acc (Nat.le_refl _)
  · have hd := (quiescent_iff_needMoreBytes s).mp hq
    exact ⟨length_le_of_needMoreBytes hd, head?_of_needMoreBytes hd⟩

/-! ## Buffers with nothing to resolve, and what one byte more does -/

/-- ACC.STEP has nothing to do on this buffer (R156). -/
abbrev Unresolved (maxData : Nat) (a : List Byte) : Prop := accEvent (frameDecode maxData a) = none

variable {maxData : Nat}

/-- R137 (a). -/
theorem unresolved_nil : Unresolved maxData [] := rfl

/-- R137 (b), within the header. -/
theorem unresolved_header {h : List Byte} (hh : h.length ≤ 4) : Unresolved maxData (Config.stxByte :: h) := by
  rw [Unresolved, (DecodeShape.short h (by simp [List.drop_eq_nil_of_le hh]) (by omega)).eq]
  rfl

/-- R137 (b), within DATA. -/
theorem unresolved_data {h d : List Byte} (hh : h.length = 4) (he : Config.etxByte ∉ d)
    (hd : d.length ≤ maxData) : Unresolved maxData (Config.stxByte :: (h ++ d)) := by
  have hdrop : (h ++ d).drop 4 = d := by rw [← hh, List.drop_left]
  rw [Unresolved, (DecodeShape.short (h ++ d) (by rwa [hdrop]) (by simp; omega)).eq]
  rfl

/-- R137 (c). -/
theorem unresolved_etx {h d : List Byte} (hh : h.length = 4) (he : Config.etxByte ∉ d)
    (hd : d.length ≤ maxData) : Unresolved maxData (Config.stxByte :: (h ++ d ++ [Config.etxByte])) := by
  rw [Unresolved, (DecodeShape.etxLast h d hh hd he).eq]
  rfl

/-- What a complete candidate is resolved to (R157, R158, R160). -/
def candidateEvent (c0 c1 u0 u1 l : Byte) (d : List Byte) : AccEvent :=
  if lrcOf ([c0, c1, u0, u1] ++ d ++ [Config.etxByte]) = l then .frame ⟨⟨c0, c1⟩, ⟨u0, u1⟩, d⟩
  else .diag (.checksumDiscard (d.length + 7))

/-- R157 on a complete candidate: one event, and on with what stands behind it. -/
theorem drainOf_candidate (c0 c1 u0 u1 l : Byte) {d : List Byte} (r : List Byte) (hd : d.length ≤ maxData)
    (he : Config.etxByte ∉ d) :
    drainOf maxData (Config.stxByte :: ([c0, c1, u0, u1] ++ d ++ Config.etxByte :: l :: r)) =
      (candidateEvent c0 c1 u0 u1 l d :: (drainOf maxData r).1, (drainOf maxData r).2) := by
  have hev : accEvent (frameDecode maxData (Config.stxByte :: ([c0, c1, u0, u1] ++ d ++ Config.etxByte :: l :: r))) =
      some (candidateEvent c0 c1 u0 u1 l d, d.length + 7) := by
    rw [decode_candidate_checks maxData c0 c1 u0 u1 l d r hd he, checkedAs, candidateEvent]
    split <;> rfl
  rw [drainOf_of_some hev]
  simp

/-- R157 on garbage: one event for all of it, and on from the STX. -/
theorem drainOf_garbage {g r : List Byte} (hg : g ≠ []) (hs : Config.stxByte ∉ g)
    (hr : r = [] ∨ r.head? = some Config.stxByte) :
    drainOf maxData (g ++ r) =
      (.diag (.invalidDiscard g.length) :: (drainOf maxData r).1, (drainOf maxData r).2) := by
  have hev : accEvent (frameDecode maxData (g ++ r)) = some (.diag (.invalidDiscard g.length), g.length) := by
    rw [(DecodeShape.garbage g r hg hs hr).eq]
    rfl
  rw [drainOf_of_some hev]
  simp

/-! ## Feed -/

/-- R165: a byte that leaves nothing to resolve is kept. -/
theorem feed_cons_of_unresolved {a s : List Byte} {b : Byte} (h : Unresolved maxData (a ++ [b])) :
    feed maxData a (b :: s) = feed maxData (a ++ [b]) s := by
  simp only [feed, drainOf_of_none h, List.nil_append]

/-- R165: the last byte of a stream. -/
theorem feed_singleton (a : List Byte) (b : Byte) : feed maxData a [b] = drainOf maxData (a ++ [b]) := by
  simp [feed]

/-! ## The receiver is Feed (R99, R165) -/

/-- R155, R156 on a quiescent accumulator. -/
theorem receiveByte_of_unresolved {s : State} (hq : Unresolved s.params.maxData s.acc) (b : Byte) :
    receiveByte s b = { s with
      acc := (drainOf s.params.maxData (s.acc ++ [b])).2
      rxLog := s.rxLog ++ [b]
      frameLog := s.frameLog ++ framesOf (drainOf s.params.maxData (s.acc ++ [b])).1
      diagLog := s.diagLog ++ diagsOf (drainOf s.params.maxData (s.acc ++ [b])).1 } := by
  simp [receiveByte, drain_eq, drainOf_of_none hq, pushByte]

/-- R165: bytes one after the other, from a quiescent accumulator. -/
theorem foldl_receiveByte_of_unresolved (bs : List Byte) {s : State} (hq : Unresolved s.params.maxData s.acc) :
    bs.foldl receiveByte s = { s with
      acc := (feed s.params.maxData s.acc bs).2
      rxLog := s.rxLog ++ bs
      frameLog := s.frameLog ++ framesOf (feed s.params.maxData s.acc bs).1
      diagLog := s.diagLog ++ diagsOf (feed s.params.maxData s.acc bs).1 } := by
  induction bs generalizing s with
  | nil => simp [feed]
  | cons b bs ih =>
    rw [List.foldl_cons, receiveByte_of_unresolved hq, ih (drainOf_ends _ _)]
    simp [feed]

/-- R156: the decode loop leaves a quiescent accumulator, so that it can be run before the first byte. -/
theorem receiveByte_drain (s : State) (b : Byte) : receiveByte (drain s) b = receiveByte s b := by
  have hends : Unresolved (drain s).params.maxData (drain s).acc := by
    rw [drain_eq]
    exact drainOf_ends _ _
  have hidem : drain (drain s) = drain s := by
    rw [drain_eq (drain s), drainOf_of_none hends]
    simp
  simp only [receiveByte, hidem]

/-- R165: what the receiver does with bytes on an open link, all of it. -/
theorem receive_eq {bs : List Byte} {s : State} (hl : s.link = .opened) (hbs : bs ≠ []) :
    receive bs s = { s with
      acc := (feed s.params.maxData (drainOf s.params.maxData s.acc).2 bs).2
      rxLog := s.rxLog ++ bs
      frameLog := s.frameLog ++ framesOf ((drainOf s.params.maxData s.acc).1 ++
        (feed s.params.maxData (drainOf s.params.maxData s.acc).2 bs).1)
      diagLog := s.diagLog ++ diagsOf ((drainOf s.params.maxData s.acc).1 ++
        (feed s.params.maxData (drainOf s.params.maxData s.acc).2 bs).1) } := by
  obtain ⟨b, rest, rfl⟩ := List.exists_cons_of_ne_nil hbs
  have hstart : receive (b :: rest) s = (b :: rest).foldl receiveByte (drain s) := by
    simp only [receive, hl, List.foldl_cons, receiveByte_drain]
  rw [hstart, foldl_receiveByte_of_unresolved]
  · simp [drain_eq]
  · rw [drain_eq]
    exact drainOf_ends _ _

/-- R99: a row that brings these bytes. -/
theorem feedsAccumulator_of_receive {i : Instr} {bs : List Byte} (hbs : bs ≠ [])
    (h : ∀ s, exec i s = .next (setResult none (receive bs s))) : feedsAccumulator i bs := by
  intro s hl
  rw [h, receive_eq hl hbs, setResult]

/-- Settles O27: each row brings its own bytes; while Closed none arrives. -/
theorem wireRowsFeedTheAccumulator : Obligations.WireRowsFeedTheAccumulator := by
  refine ⟨?_, ?_, ?_, ?_, ?_, ?_, ?_, ?_, ?_, ?_, ?_, ?_, ?_, ?_, ?_, ?closed⟩
  case closed =>
    intro i s hf hl
    obtain ⟨bs, -, h⟩ := exec_of_wire hf
    rw [h, receive_of_closed hl, setResult]
  all_goals intros; exact feedsAccumulator_of_receive (List.cons_ne_nil _ _) fun _ => rfl

/-! ## A byte by its position (R84) -/

/-- R84: one byte on the wire, on an open link with a quiescent accumulator. -/
theorem exec_wireByte {i : Instr} {b : Byte} {s : State} (hi : isWireByte i b) (hl : s.link = .opened)
    (hq : Unresolved s.params.maxData s.acc) :
    exec i s = .next { s with
      acc := (drainOf s.params.maxData (s.acc ++ [b])).2
      rxLog := s.rxLog ++ [b]
      frameLog := s.frameLog ++ framesOf (drainOf s.params.maxData (s.acc ++ [b])).1
      diagLog := s.diagLog ++ diagsOf (drainOf s.params.maxData (s.acc ++ [b])).1
      result := none } := by
  have hexec : exec i s = .next (setResult none (receive [b] s)) := by
    rcases hi with ⟨rfl, rfl⟩ | ⟨rfl, rfl⟩ | ⟨rfl, -, -⟩ <;> rfl
  rw [hexec, receive_eq hl (List.cons_ne_nil _ _), drainOf_of_none hq]
  simp only [feed_singleton, List.nil_append, setResult]

/-- R84: a byte that leaves nothing to resolve is appended. -/
theorem exec_wireByte_keeps {i : Instr} {b : Byte} {s : State} (hi : isWireByte i b) (hl : s.link = .opened)
    (hq : Unresolved s.params.maxData s.acc) (hq' : Unresolved s.params.maxData (s.acc ++ [b])) :
    exec i s = .next { s with acc := s.acc ++ [b], rxLog := s.rxLog ++ [b], result := none } := by
  rw [exec_wireByte hi hl hq, drainOf_of_none hq']
  simp

/-- Settles O26: position by position, the buffer before and after the byte being unresolved, garbage or
complete. -/
theorem byteClassMeansItsPosition : Obligations.ByteClassMeansItsPosition := by
  intro i b s hi hl
  refine ⟨fun ha hb => ?start, fun ha hb => ?garbage, fun h ha hh => ?header, fun h d ha hh he hd => ?data,
    fun h d ha hh he hd => ?checksum⟩
  case start =>
    subst hb
    have := exec_wireByte_keeps hi hl (ha ▸ unresolved_nil) (by rw [ha]; exact unresolved_header (by simp))
    simpa [ha] using this
  case garbage =>
    have hdrop : drainOf s.params.maxData [b] = ([.diag (.invalidDiscard 1)], []) :=
      drainOf_garbage (g := [b]) (r := []) (by simp) (by simpa using Ne.symm hb) (.inl rfl)
    rw [exec_wireByte hi hl (ha ▸ unresolved_nil), ha, List.nil_append, hdrop]
    simp [diagsOf, framesOf]
  case header =>
    exact exec_wireByte_keeps hi hl (by rw [ha]; exact unresolved_header (by omega))
      (by rw [ha]; exact unresolved_header (h := h ++ [b]) (by simp; omega))
  case data =>
    refine exec_wireByte_keeps hi hl (by rw [ha]; exact unresolved_data hh he (by omega)) ?_
    rw [ha, List.cons_append, List.append_assoc]
    by_cases hb : b = Config.etxByte
    · rw [hb, ← List.append_assoc]
      exact unresolved_etx hh he (by omega)
    · have hlt : d.length < s.params.maxData := hd.resolve_right fun h => hb h.2
      exact unresolved_data hh (by simp [he, Ne.symm hb]) (by simpa using hlt)
  case checksum =>
    match h, hh with
    | [c0, c1, u0, u1], _ =>
      have hdrain : drainOf s.params.maxData (s.acc ++ [b]) = ([candidateEvent c0 c1 u0 u1 b d], []) := by
        have := drainOf_candidate c0 c1 u0 u1 b [] hd he
        rw [ha]
        simpa [drainOf_of_none unresolved_nil] using this
      rw [exec_wireByte hi hl (by rw [ha]; exact unresolved_etx rfl he hd), hdrain, candidateEvent]
      refine ⟨fun hne => ?_, fun heq => ⟨⟨⟨c0, c1⟩, ⟨u0, u1⟩, d⟩, rfl, rfl, ?_⟩⟩
      · rw [if_neg hne]
        simp [framesOf, diagsOf]
      · rw [if_pos heq]
        simp [framesOf, diagsOf]

/-! ## Whole frames (R80) -/

/-- R82: the header of a candidate leaves nothing to resolve. -/
theorem feed_header (c0 c1 u0 u1 : Byte) (s : List Byte) :
    feed maxData [] (Config.stxByte :: c0 :: c1 :: u0 :: u1 :: s) =
      feed maxData [Config.stxByte, c0, c1, u0, u1] s := by
  rw [feed_cons_of_unresolved (a := []) (unresolved_header (h := []) (by simp)),
    feed_cons_of_unresolved (unresolved_header (h := [c0]) (by simp)),
    feed_cons_of_unresolved (unresolved_header (h := [c0, c1]) (by simp)),
    feed_cons_of_unresolved (unresolved_header (h := [c0, c1, u0]) (by simp)),
    feed_cons_of_unresolved (unresolved_header (h := [c0, c1, u0, u1]) (by simp))]
  rfl

/-- R157: ETX and the checksum byte behind header and DATA. -/
theorem feed_end (c0 c1 u0 u1 l : Byte) {d : List Byte} (hd : d.length ≤ maxData) (he : Config.etxByte ∉ d) :
    feed maxData (Config.stxByte :: ([c0, c1, u0, u1] ++ d)) [Config.etxByte, l] =
      ([candidateEvent c0 c1 u0 u1 l d], []) := by
  have hc := drainOf_candidate c0 c1 u0 u1 l [] hd he
  rw [feed_cons_of_unresolved (unresolved_etx rfl he hd), feed_singleton]
  simpa [drainOf_of_none unresolved_nil] using hc

/-- R80: a frame pattern from an empty accumulator on an open link, delivered or discarded as a whole. -/
theorem exec_of_candidate {i : Instr} {bs d : List Byte} {s : State} {c u : Field2} {l : Byte}
    (hi : feedsAccumulator i bs) (hl : s.link = .opened) (ha : s.acc = [])
    (hf : feed s.params.maxData [] bs = ([candidateEvent c.b0 c.b1 u.b0 u.b1 l d], [])) :
    exec i s =
      if lrcOf (c.toList ++ u.toList ++ d ++ [Config.etxByte]) = l then
        .next { s with
          rxLog := s.rxLog ++ bs
          frameLog := s.frameLog ++ [{ cmd := c, sub := u, data := d }], result := none }
      else
        .next { s with
          rxLog := s.rxLog ++ bs
          diagLog := s.diagLog ++ [.checksumDiscard (d.length + 7)], result := none } := by
  have hexec := hi s hl
  simp only [ha, drainOf_of_none unresolved_nil, hf, List.nil_append, candidateEvent] at hexec
  rw [hexec]
  by_cases h : lrcOf (c.toList ++ u.toList ++ d ++ [Config.etxByte]) = l
  · have h' : lrcOf ([c.b0, c.b1, u.b0, u.b1] ++ d ++ [Config.etxByte]) = l := h
    rw [if_pos h, if_pos h']
    simp [framesOf, diagsOf, ha]
  · have h' : ¬ lrcOf ([c.b0, c.b1, u.b0, u.b1] ++ d ++ [Config.etxByte]) = l := h
    rw [if_neg h, if_neg h']
    simp [framesOf, diagsOf, ha]

/-- Settles O28: both rows are a header, at most one DATA byte, ETX and the checksum byte. -/
theorem frameRowsDeliverOrDiscard : Obligations.FrameRowsDeliverOrDiscard := by
  obtain ⟨-, -, -, -, -, -, -, -, -, -, -, -, -, hL0, hL1, -⟩ := wireRowsFeedTheAccumulator
  intro c u d l s hl ha
  refine ⟨?_, fun hd hmax => ?_⟩
  · have hf := feed_end (maxData := s.params.maxData) c.b0 c.b1 u.b0 u.b1 l (d := []) (by simp) (by simp)
    have := exec_of_candidate (hL0 c u l) hl ha ((feed_header c.b0 c.b1 u.b0 u.b1 _).trans hf)
    rwa [List.append_nil, lrcOf_concat] at this
  · have he : Config.etxByte ∉ [d] := by simpa using Ne.symm hd
    have hf := feed_end c.b0 c.b1 u.b0 u.b1 l (d := [d]) hmax he
    have hdata := feed_cons_of_unresolved (a := [Config.stxByte, c.b0, c.b1, u.b0, u.b1])
      (s := [Config.etxByte, l]) (unresolved_data (h := [c.b0, c.b1, u.b0, u.b1]) rfl he hmax)
    have := exec_of_candidate (hL1 c u d l) hl ha
      ((feed_header c.b0 c.b1 u.b0 u.b1 _).trans (hdata.trans hf))
    rwa [lrcOf_concat] at this

end Sys2Proof.Proofs
end

section
/-! Proofs about a stream cut into chunks (43_accumulator.md section 3, R166 and R167): what Drain resolves does
not depend on when it runs, but for how garbage is counted out. -/

namespace Sys2Proof.Proofs

open Sys2Proof Sys2Proof.Machine Sys2Proof.Laws

variable {maxData : Nat}

/-! ## Events up to the cutting of garbage -/

@[simp] theorem withoutGarbage_append (a b : List AccEvent) :
    withoutGarbage (a ++ b) = withoutGarbage a ++ withoutGarbage b := List.filter_append _ _

@[simp] theorem withoutGarbage_invalidDiscard (k : Nat) (evs : List AccEvent) :
    withoutGarbage (.diag (.invalidDiscard k) :: evs) = withoutGarbage evs := rfl

@[simp] theorem withoutGarbage_frame (f : Frame) (evs : List AccEvent) :
    withoutGarbage (.frame f :: evs) = .frame f :: withoutGarbage evs := rfl

@[simp] theorem garbageTotal_nil : garbageTotal [] = 0 := rfl

@[simp] theorem garbageTotal_append (a b : List AccEvent) :
    garbageTotal (a ++ b) = garbageTotal a + garbageTotal b := by
  simp [garbageTotal, List.filterMap_append]

@[simp] theorem garbageTotal_invalidDiscard (k : Nat) (evs : List AccEvent) :
    garbageTotal (.diag (.invalidDiscard k) :: evs) = k + garbageTotal evs := rfl

@[simp] theorem garbageTotal_frame (f : Frame) (evs : List AccEvent) :
    garbageTotal (.frame f :: evs) = garbageTotal evs := rfl

/-- The same buffer, the same frames and checksum errors in order, and as many garbage bytes (R166). -/
structure SameUpToGarbage (x y : List AccEvent × List Byte) : Prop where
  buffer : x.2 = y.2
  events : withoutGarbage x.1 = withoutGarbage y.1
  garbage : garbageTotal x.1 = garbageTotal y.1

namespace SameUpToGarbage

theorem refl (x : List AccEvent × List Byte) : SameUpToGarbage x x := ⟨rfl, rfl, rfl⟩

theorem symm {x y : List AccEvent × List Byte} (h : SameUpToGarbage x y) : SameUpToGarbage y x :=
  ⟨h.buffer.symm, h.events.symm, h.garbage.symm⟩

theorem trans {x y z : List AccEvent × List Byte} (h : SameUpToGarbage x y) (h' : SameUpToGarbage y z) :
    SameUpToGarbage x z :=
  ⟨h.buffer.trans h'.buffer, h.events.trans h'.events, h.garbage.trans h'.garbage⟩

/-- Behind the same events. -/
theorem prepend {x y : List AccEvent × List Byte} (evs : List AccEvent) (h : SameUpToGarbage x y) :
    SameUpToGarbage (evs ++ x.1, x.2) (evs ++ y.1, y.2) :=
  ⟨h.buffer, by simp [h.events], by simp [h.garbage]⟩

end SameUpToGarbage

/-- R138, R166: garbage in front of nothing or of an STX is counted and gone. -/
theorem drainOf_garbage_same {g r : List Byte} (hs : Config.stxByte ∉ g)
    (hr : r = [] ∨ r.head? = some Config.stxByte) :
    SameUpToGarbage (drainOf maxData (g ++ r))
      (.diag (.invalidDiscard g.length) :: (drainOf maxData r).1, (drainOf maxData r).2) := by
  by_cases hg : g = []
  · subst hg
    exact ⟨rfl, rfl, (Nat.zero_add _).symm⟩
  · rw [drainOf_garbage hg hs hr]
    exact .refl _

/-! ## Drain in two parts -/

/-- R166: Drain, then more bytes and Drain again, is Drain of everything. -/
def DrainsInTwo (maxData : Nat) (a t : List Byte) : Prop :=
  SameUpToGarbage (drainOf maxData (a ++ t))
    ((drainOf maxData a).1 ++ (drainOf maxData ((drainOf maxData a).2 ++ t)).1,
      (drainOf maxData ((drainOf maxData a).2 ++ t)).2)

/-- R144: an outcome that the bytes behind it leave as it is can be taken off first. -/
theorem drainsInTwo_of_same_outcome {a t : List Byte} {ev : AccEvent} {k : Nat}
    (ha : accEvent (frameDecode maxData a) = some (ev, k))
    (hat : accEvent (frameDecode maxData (a ++ t)) = some (ev, k)) (h : DrainsInTwo maxData (a.drop k) t) :
    DrainsInTwo maxData a t := by
  obtain ⟨-, hk⟩ := accEvent_count maxData a ev k ha
  rw [DrainsInTwo, drainOf_of_some ha, drainOf_of_some hat, List.drop_append_of_le_length hk]
  exact h.prepend [ev]

/-- R144: a drop of the whole buffer goes on into the bytes behind it, and only its count is cut in two. -/
theorem drainsInTwo_of_whole_drop {a g r : List Byte} (hd : frameDecode maxData a = .invalid a.length)
    (hs : Config.stxByte ∉ g) (hr : r = [] ∨ r.head? = some Config.stxByte)
    (hat : frameDecode maxData (a ++ (g ++ r)) = .invalid (a.length + g.length)) :
    DrainsInTwo maxData a (g ++ r) := by
  have hrest := drainOf_garbage_same (maxData := maxData) hs hr
  rw [DrainsInTwo, drainOf_of_some (congrArg accEvent hd), drainOf_of_some (congrArg accEvent hat),
    List.drop_length, drainOf_of_none unresolved_nil, ← List.append_assoc, ← List.length_append, List.drop_left]
  simp only [List.nil_append]
  refine .trans ?_ (hrest.symm.prepend [.diag (.invalidDiscard a.length)])
  exact ⟨rfl, rfl, by simp [Nat.add_assoc]⟩

/-- R166, by the first outcome of the buffer. -/
theorem drainsInTwo (maxData : Nat) (a t : List Byte) : DrainsInTwo maxData a t := by
  induction hn : a.length using Nat.strongRecOn generalizing a with
  | ind n ih =>
    have shorter : ∀ {ev : AccEvent} {k : Nat}, accEvent (frameDecode maxData a) = some (ev, k) →
        DrainsInTwo maxData (a.drop k) t := by
      intro ev k ha
      have hk := accEvent_count maxData a ev k ha
      exact ih _ (by rw [List.length_drop]; omega) (a.drop k) rfl
    cases hd : frameDecode maxData a with
    | needMoreBytes =>
      rw [DrainsInTwo, drainOf_of_none ((accEvent_eq_none _).mpr hd)]
      exact .refl _
    | frame cmd sub data k =>
      have ha := congrArg accEvent hd
      exact drainsInTwo_of_same_outcome ha (congrArg accEvent (frame_append t hd)) (shorter ha)
    | checksumError k =>
      have ha := congrArg accEvent hd
      exact drainsInTwo_of_same_outcome ha (congrArg accEvent (checksumError_append t hd)) (shorter ha)
    | invalid k =>
      have ha := congrArg accEvent hd
      rcases invalid_extends t hd with ⟨-, hk⟩ | ⟨rfl, g, r, rfl, hg, hr, hk⟩
      · exact drainsInTwo_of_same_outcome ha (congrArg accEvent hk) (shorter ha)
      · exact drainsInTwo_of_whole_drop hd hg hr hk

/-- R166: chunk by chunk from a quiescent buffer, or all at once. -/
theorem feedChunks_same {a : List Byte} (chunks : List (List Byte)) (ha : Unresolved maxData a) :
    SameUpToGarbage (feedChunks maxData a chunks) (drainOf maxData (a ++ chunks.flatten)) := by
  induction chunks generalizing a with
  | nil =>
    rw [List.flatten_nil, List.append_nil, drainOf_of_none ha]
    exact .refl _
  | cons c rest ih =>
    rw [List.flatten_cons, ← List.append_assoc]
    exact ((ih (drainOf_ends maxData (a ++ c))).prepend _).trans (drainsInTwo maxData (a ++ c) rest.flatten).symm

/-- R165, R166: Feed is the chunks of one byte each. -/
theorem feed_eq_feedChunks (a s : List Byte) :
    feed maxData a s = feedChunks maxData a (s.map fun b => [b]) := by
  induction s generalizing a with
  | nil => rfl
  | cons b s ih => simp only [feed, List.map_cons, feedChunks, ih]

/-- R166: byte by byte, or all at once. -/
theorem feed_same {a : List Byte} (s : List Byte) (ha : Unresolved maxData a) :
    SameUpToGarbage (feed maxData a s) (drainOf maxData (a ++ s)) := by
  have hflat : (s.map fun b => [b]).flatten = s := by
    induction s with
    | nil => rfl
    | cons b s ih => rw [List.map_cons, List.flatten_cons, ih, List.singleton_append]
  rw [feed_eq_feedChunks]
  have := feedChunks_same (s.map fun b => [b]) ha
  rwa [hflat] at this

/-- Settles O29: both cuttings are compared with the whole stream. -/
theorem chunkingDoesNotMatter : Obligations.ChunkingDoesNotMatter := by
  intro maxData chunks
  have hc := feedChunks_same chunks (unresolved_nil (maxData := maxData))
  have hb := feed_same chunks.flatten (unresolved_nil (maxData := maxData))
  exact ⟨hc.buffer, hc.events, hc.garbage, hb.buffer, hb.events, hb.garbage⟩

/-! ## Resynchronisation -/

/-- R143 on the stream: an encoded frame is delivered, and on with what stands behind it. -/
theorem drainOf_frame_append {m : Frame} {f : List Byte} (r : List Byte) (he : Config.etxByte ∉ m.data)
    (hf : frameEncode maxData m.cmd m.sub m.data = some f) :
    drainOf maxData (f ++ r) = (.frame m :: (drainOf maxData r).1, (drainOf maxData r).2) := by
  have hd := decodeOfEncodeIsTheFrame maxData m.cmd m.sub m.data f r hf he
  obtain ⟨-, rfl⟩ := frameEncode_eq_some.mp hf
  rw [drainOf_of_some (congrArg accEvent hd), ← length_frameBytes m.cmd m.sub m.data, List.drop_left]

/-- An encoded frame begins with STX, so that garbage ends before it. -/
theorem head?_frame_append {m : Frame} {f : List Byte} (r : List Byte)
    (hf : frameEncode maxData m.cmd m.sub m.data = some f) : (f ++ r).head? = some Config.stxByte := by
  obtain ⟨-, rfl⟩ := frameEncode_eq_some.mp hf
  rfl

/-- Settles O30: byte by byte is all at once, and there garbage, frame, garbage, frame, garbage in turn. -/
theorem resynchronisesOnTwoFrames : Obligations.ResynchronisesOnTwoFrames := by
  intro maxData g0 g1 g2 f1 f2 m1 m2 h0 h1 h2 he1 he2 hf1 hf2
  have hwhole := feed_same (g0 ++ f1 ++ g1 ++ f2 ++ g2) (unresolved_nil (maxData := maxData))
  simp only [List.nil_append, List.append_assoc] at hwhole ⊢
  have hg0 := drainOf_garbage_same (maxData := maxData) h0 (.inr (head?_frame_append (g1 ++ (f2 ++ g2)) hf1))
  have hg1 := drainOf_garbage_same (maxData := maxData) h1 (.inr (head?_frame_append g2 hf2))
  have hg2 := drainOf_garbage_same (maxData := maxData) h2 (.inl rfl)
  rw [drainOf_frame_append _ he1 hf1] at hg0
  rw [drainOf_frame_append _ he2 hf2] at hg1
  rw [List.append_nil, drainOf_of_none unresolved_nil] at hg2
  have hsame : SameUpToGarbage (feed maxData [] (g0 ++ (f1 ++ (g1 ++ (f2 ++ g2)))))
      ([.diag (.invalidDiscard g0.length), .frame m1, .diag (.invalidDiscard g1.length), .frame m2,
        .diag (.invalidDiscard g2.length)], []) :=
    hwhole.trans (hg0.trans ((hg1.trans (hg2.prepend [_, _])).prepend [_, _]))
  exact ⟨hsame.events, by rw [hsame.garbage]; simp [Nat.add_assoc], hsame.buffer⟩

end Sys2Proof.Proofs
end

section
/-! Proofs about the invariants (10_state.md section 4), the step (00_scope.md section 5, 60_exceptions.md), the
histories (20_memory.md) and the reset pin (70_reset_and_hazards.md). -/

namespace Sys2Proof.Proofs

open Sys2Proof Sys2Proof.Machine Sys2Proof.Laws

/-! ## The two sides of the block (R60 O6) -/

/-- R165: the decode loop reads and writes the receive side alone. -/
theorem drain_withTxSide (u s : State) : drain (withTxSide u s) = withTxSide u (drain s) := by
  simp only [drain_eq, withTxSide]

/-- R155: so does a received byte. -/
theorem receiveByte_withTxSide (u s : State) (b : Byte) :
    receiveByte (withTxSide u s) b = withTxSide u (receiveByte s b) := by
  have hpush : ∀ s, pushByte b (withTxSide u s) = withTxSide u (pushByte b s) := fun _ => rfl
  simp only [receiveByte, drain_withTxSide, hpush]

/-- R155: and a whole row. -/
theorem receive_withTxSide (u s : State) (bs : List Byte) :
    receive bs (withTxSide u s) = withTxSide u (receive bs s) := by
  cases hl : s.link with
  | closed => rw [receive_of_closed hl, receive_of_closed (s := withTxSide u s) hl]
  | opened =>
    simp only [receive, hl, show (withTxSide u s).link = .opened from hl]
    exact List.foldl_hom (withTxSide u) (fun s b => receiveByte_withTxSide u s b)

/-- R60 (O6): RX.PUSH does not look at the transmit side. -/
theorem exec_rxPush_withTxSide (b : Byte) (u s : State) :
    exec (.rxPush b) (withTxSide u s) = onNext (withTxSide u) (exec (.rxPush b) s) := by
  cases hl : s.link with
  | closed => rw [exec_rxPush_of_closed hl, exec_rxPush_of_closed (s := withTxSide u s) hl]; rfl
  | opened =>
    by_cases hq : quiescent s = true
    · rw [exec_rxPush_of_quiescent hl hq, exec_rxPush_of_quiescent (s := withTxSide u s) hl hq]; rfl
    · rw [exec_rxPush_of_not_quiescent hl hq, exec_rxPush_of_not_quiescent (s := withTxSide u s) hl hq]; rfl

/-- R60 (O6): nor does ACC.STEP. -/
theorem exec_accStep_withTxSide (u s : State) :
    exec .accStep (withTxSide u s) = onNext (withTxSide u) (exec .accStep s) := by
  cases hl : s.link with
  | closed => rw [exec_accStep_of_closed hl, exec_accStep_of_closed (s := withTxSide u s) hl]; rfl
  | opened =>
    cases he : accEvent (frameDecode s.params.maxData s.acc) with
    | none =>
      have hd := (accEvent_eq_none _).mp he
      rw [exec_accStep_of_needMoreBytes hl hd, exec_accStep_of_needMoreBytes (s := withTxSide u s) hl hd]; rfl
    | some p =>
      rw [exec_accStep_of_event hl he, exec_accStep_of_event (s := withTxSide u s) hl he]
      obtain ⟨f | d, k⟩ := p <;> rfl

/-- R60 (O6): what the receive side leaves alone. -/
theorem exec_rx_frame {i : Instr} {s t : State}
    (hi : (∃ b, i = .rxPush b) ∨ i = .accStep ∨ i.format ≠ .op5) (h : exec i s = .next t) :
    t.link = s.link ∧ t.lrcTx = s.lrcTx ∧ t.wq = s.wq ∧ t.cur = s.cur ∧ t.txLog = s.txLog ∧
      t.doneLog = s.doneLog := by
  rcases hi with ⟨b, rfl⟩ | rfl | hf
  · cases exec_next h with
    | rxPush => exact ⟨rfl, rfl, rfl, rfl, rfl, rfl⟩
    | wire _ bs _ hf => exact absurd rfl hf
  · cases exec_next h with
    | accStep => simp
    | wire _ bs _ hf => exact absurd rfl hf
  · obtain ⟨bs, -, hexec⟩ := exec_of_wire hf
    cases (hexec s).symm.trans h
    simp

/-- R60 (O6): what the transmit side leaves alone. -/
theorem exec_tx_frame {i : Instr} {s t : State}
    (hi : (∃ r cmd sub data, i = .wrReq r cmd sub data) ∨ i = .wrGrant ∨ i = .txEmit ∨ i = .wrDone)
    (h : exec i s = .next t) :
    t.link = s.link ∧ t.acc = s.acc ∧ t.rxLog = s.rxLog ∧ t.frameLog = s.frameLog ∧ t.diagLog = s.diagLog := by
  cases exec_next h with
  | txEmit => rw [emitNextByte_eq]; exact ⟨rfl, rfl, rfl, rfl, rfl⟩
  | wrReqCompleted | wrReqQueued | wrGrant | wrDone => exact ⟨rfl, rfl, rfl, rfl, rfl⟩
  | wire _ bs _ hf => rcases hi with ⟨r, cmd, sub, data, rfl⟩ | rfl | rfl | rfl <;> exact absurd rfl hf
  | _ => simp at hi

/-- R60 (O6): WR.REQ does not look at the receive side. -/
theorem exec_wrReq_withRxSide (r : Nat) (cmd sub : Field2) (data : List Byte) (u s : State) :
    exec (.wrReq r cmd sub data) (withRxSide u s) = onNext (withRxSide u) (exec (.wrReq r cmd sub data) s) := by
  by_cases hr : s.params.nreq ≤ r
  · rw [exec_wrReq_of_nreq_le hr, exec_wrReq_of_nreq_le (s := withRxSide u s) hr]; rfl
  have hr := Nat.lt_of_not_le hr
  by_cases ho : r ∈ outstanding s
  · rw [exec_wrReq_of_outstanding hr ho, exec_wrReq_of_outstanding (s := withRxSide u s) hr ho]; rfl
  by_cases hd : s.params.maxData < data.length
  · rw [exec_wrReq_of_tooLarge hr ho hd, exec_wrReq_of_tooLarge (s := withRxSide u s) hr ho hd]; rfl
  have hd := Nat.le_of_not_lt hd
  cases hl : s.link with
  | closed => rw [exec_wrReq_of_closed hr ho hd hl, exec_wrReq_of_closed (s := withRxSide u s) hr ho hd hl]; rfl
  | opened => rw [exec_wrReq_of_opened hr ho hd hl, exec_wrReq_of_opened (s := withRxSide u s) hr ho hd hl]; rfl

/-- R60 (O6): nor does WR.GRANT. -/
theorem exec_wrGrant_withRxSide (u s : State) :
    exec .wrGrant (withRxSide u s) = onNext (withRxSide u) (exec .wrGrant s) := by
  cases hl : s.link with
  | closed => rw [exec_wrGrant_of_closed hl, exec_wrGrant_of_closed (s := withRxSide u s) hl]; rfl
  | opened =>
    cases hc : s.cur with
    | some a => rw [exec_wrGrant_of_busy hl hc, exec_wrGrant_of_busy (s := withRxSide u s) hl hc]; rfl
    | none =>
      cases hw : s.wq with
      | nil => rw [exec_wrGrant_of_nil hl hc hw, exec_wrGrant_of_nil (s := withRxSide u s) hl hc hw]; rfl
      | cons q rest =>
        rw [exec_wrGrant_of_cons hl hc hw, exec_wrGrant_of_cons (s := withRxSide u s) hl hc hw]; rfl

/-- R60 (O6): nor does TX.EMIT. -/
theorem exec_txEmit_withRxSide (u s : State) :
    exec .txEmit (withRxSide u s) = onNext (withRxSide u) (exec .txEmit s) := by
  cases hl : s.link with
  | closed => rw [exec_txEmit_of_closed hl, exec_txEmit_of_closed (s := withRxSide u s) hl]; rfl
  | opened =>
    cases hc : s.cur with
    | none => rw [exec_txEmit_of_none hl hc, exec_txEmit_of_none (s := withRxSide u s) hl hc]; rfl
    | some a =>
      rcases Nat.lt_or_ge a.idx (frameLength a.req) with hi | hi
      · rw [exec_txEmit_of_lt hl hc hi, exec_txEmit_of_lt (s := withRxSide u s) hl hc hi, emitNextByte_eq,
          emitNextByte_eq]
        rfl
      · rw [exec_txEmit_of_le hl hc hi, exec_txEmit_of_le (s := withRxSide u s) hl hc hi]; rfl

/-- R60 (O6): nor does WR.DONE. -/
theorem exec_wrDone_withRxSide (u s : State) :
    exec .wrDone (withRxSide u s) = onNext (withRxSide u) (exec .wrDone s) := by
  cases hc : s.cur with
  | none => rw [exec_wrDone_of_none hc, exec_wrDone_of_none (s := withRxSide u s) hc]; rfl
  | some a =>
    by_cases hi : a.idx = frameLength a.req
    · rw [exec_wrDone_of_eq hc hi, exec_wrDone_of_eq (s := withRxSide u s) hc hi]; rfl
    · rw [exec_wrDone_of_ne hc hi, exec_wrDone_of_ne (s := withRxSide u s) hc hi]; rfl

/-- Settles O41: operation by operation, what it leaves and what it does not look at. -/
theorem transmitAndReceiveAreSeparate : Obligations.TransmitAndReceiveAreSeparate := by
  refine fun i s => ⟨fun hi => ⟨fun t => exec_rx_frame hi, fun u => ?_⟩,
    fun hi => ⟨fun t => exec_tx_frame hi, fun u => ?_⟩⟩
  · rcases hi with ⟨b, rfl⟩ | rfl | hf
    · exact exec_rxPush_withTxSide b u s
    · exact exec_accStep_withTxSide u s
    · obtain ⟨bs, -, hexec⟩ := exec_of_wire hf
      rw [hexec, hexec, receive_withTxSide]
      rfl
  · rcases hi with ⟨r, cmd, sub, data, rfl⟩ | rfl | rfl | rfl
    · exact exec_wrReq_withRxSide r cmd sub data u s
    · exact exec_wrGrant_withRxSide u s
    · exact exec_txEmit_withRxSide u s
    · exact exec_wrDone_withRxSide u s

/-! ## The invariants under every instruction -/

/-- I3 in every state after a wire row: what is left is quiescent. -/
theorem receive_acc_bound {bs : List Byte} {s : State} (hs : s.acc.length ≤ Config.accCap s.params.maxData) :
    (receive bs s).acc.length ≤ Config.accCap s.params.maxData := by
  have quiet : ∀ {a}, Unresolved s.params.maxData a → a.length ≤ Config.accCap s.params.maxData := fun ha =>
    Nat.le_succ_of_le (length_le_of_needMoreBytes ((accEvent_eq_none _).mp ha))
  have fed : ∀ (bs : List Byte) {a}, Unresolved s.params.maxData a →
      Unresolved s.params.maxData (feed s.params.maxData a bs).2 := by
    intro bs
    induction bs with
    | nil => exact fun ha => ha
    | cons b bs ih => exact fun _ => ih (drainOf_ends _ _)
  cases hl : s.link with
  | closed => rwa [receive_of_closed hl]
  | opened =>
    by_cases hbs : bs = []
    · simpa [hbs, receive, hl] using hs
    · rw [receive_eq hl hbs]
      exact quiet (fed bs (drainOf_ends _ _))

/-- I3, in every state. -/
theorem exec_keeps_accBound {i : Instr} {s t : State} (hinv : Invariants s) (h : exec i s = .next t) :
    t.acc.length ≤ Config.accCap t.params.maxData := by
  have hb := hinv.accBound
  cases exec_next h with
  | rxPush b _ hl hq =>
    have hq := hinv.accQuiet hq
    simp only [setResult_acc, pushByte_acc, List.length_append, List.length_singleton, setResult_params,
      pushByte_params, Config.accCap] at hq ⊢
    omega
  | accStep _ ev k =>
    simp only [setResult_acc, consume_acc, emitAccEvent_acc, List.length_drop, setResult_params, consume_params,
      emitAccEvent_params]
    omega
  | wire _ bs => simpa using receive_acc_bound hb
  | txEmit => rwa [emitNextByte_eq]
  | linkOpen | linkClose | linkTerr => exact Nat.zero_le _
  | _ => exact hb

/-- I2. -/
theorem exec_keeps_closedEmpty {i : Instr} {s t : State} (hinv : Invariants s) (h : exec i s = .next t)
    (hl : t.link = .closed) : t.wq = [] ∧ t.cur = none ∧ t.acc = [] := by
  have hs := hinv.closedEmpty
  cases exec_next h with
  | linkOpen => cases hl
  | linkClose | linkTerr => exact ⟨rfl, rfl, rfl⟩
  | txEmit _ _ hl' | rxPush _ _ hl' | accStep _ _ _ hl' | wrReqQueued _ _ _ _ _ _ _ _ hl' | wrGrant _ _ _ hl' =>
    cases hl'.symm.trans (by simpa [emitNextByte_eq] using hl)
  | wrDone _ a hc =>
    obtain ⟨-, hnone, -⟩ := hs hl
    cases hnone.symm.trans hc
  | wire _ bs =>
    have hl : s.link = .closed := by simpa using hl
    rw [receive_of_closed hl]
    exact hs hl
  | _ => exact hs hl

/-- I4 for the queue. -/
theorem exec_keeps_queuedData {i : Instr} {s t : State} (hinv : Invariants s) (h : exec i s = .next t) :
    ∀ q ∈ t.wq, q.data.length ≤ t.params.maxData := by
  have hs := hinv.queuedData
  cases exec_next h with
  | linkOpen | linkClose | linkTerr => exact fun q hq => absurd hq List.not_mem_nil
  | wrReqQueued r cmd sub data _ _ _ hd =>
    intro q hq
    rcases List.mem_append.mp hq with hq | hq
    · exact hs q hq
    · rw [List.mem_singleton.mp hq]
      exact hd
  | wrGrant _ q rest _ _ hw => exact fun p hp => hs p (hw ▸ List.mem_cons_of_mem q hp)
  | txEmit => rwa [emitNextByte_eq]
  | accStep => simpa using hs
  | wire => simpa using hs
  | _ => exact hs

/-- I4 for the write in progress, and I5. -/
theorem exec_keeps_writing {i : Instr} {s t : State} (hinv : Invariants s) (h : exec i s = .next t) :
    ∀ a, t.cur = some a → a.req.data.length ≤ t.params.maxData ∧ a.idx ≤ a.req.data.length + 7 ∧
      t.lrcTx = emittedLrc a.req a.idx := by
  have hs := hinv.writing
  cases exec_next h with
  | linkOpen | linkClose | linkTerr | wrDone => exact fun a ha => nomatch ha
  | txEmit _ a _ hc hi =>
    obtain ⟨hd, -, hlrc⟩ := hs a hc
    rw [emitNextByte_of_emittedLrc hi hlrc]
    rintro _ ⟨⟩
    exact ⟨hd, hi, rfl⟩
  | wrGrant _ q rest _ _ hw =>
    rintro _ ⟨⟩
    exact ⟨hinv.queuedData q (by simp [hw]), Nat.zero_le _, (emittedLrc_of_le_one q (Nat.zero_le _)).symm⟩
  | accStep => simpa using hs
  | wire => simpa using hs
  | _ => exact hs

/-- R28: every instruction keeps the invariants; I3 quiescent and I6 hold in any state (R164). -/
theorem exec_keeps_invariants {i : Instr} {s t : State} (hinv : Invariants s) (h : exec i s = .next t) :
    Invariants t := by
  obtain ⟨hnodup, hports⟩ := exec_requested h
  obtain ⟨-, -, -, hparams⟩ := exec_keeps h
  obtain ⟨new, hnew⟩ := exec_completes hinv h
  have hall : (outstanding s ++ requested i).Nodup :=
    List.nodup_append.mpr ⟨hinv.distinct, hnodup, fun a ha b hb heq => (hports b hb).2 (heq ▸ ha)⟩
  have hsub : ∀ r ∈ outstanding t, r ∈ outstanding s ++ requested i := fun r hr =>
    hnew.once.subset (List.mem_append_right _ hr)
  refine ⟨?distinct, ?ports, exec_keeps_closedEmpty hinv h, exec_keeps_accBound hinv h, ?accQuiet,
    exec_keeps_queuedData hinv h, exec_keeps_writing hinv h, ?accStart, ?statuses⟩
  case distinct => exact (List.nodup_append.mp (hnew.once.nodup_iff.mpr hall)).2.1
  case ports =>
    intro r hr
    rw [hparams]
    rcases List.mem_append.mp (hsub r hr) with hr | hr
    · exact hinv.ports r hr
    · exact (hports r hr).1
  case accQuiet => exact fun hq => (decodeLoopEndsQuiescent.2 t hq).1
  case accStart => exact fun hne hq => (decodeLoopEndsQuiescent.2 t hq).2.resolve_left hne
  case statuses =>
    intro c hc
    rw [hnew.grows] at hc
    rcases List.mem_append.mp hc with hc | hc
    · exact hinv.statuses c hc
    · rcases hnew.statuses c hc with hc | ⟨hc, -⟩
      · exact hc.isWriteStatus
      · exact .inr (.inl hc)

end Sys2Proof.Proofs
end

section
/-! Proofs about one event and one step (00_scope.md section 5, 60_exceptions.md, 70_reset_and_hazards.md): the
invariants and the histories carried from `exec` to the step, the reset pin, and what a step runs. -/

namespace Sys2Proof.Proofs

open Sys2Proof Sys2Proof.Machine Sys2Proof.Laws

/-! ## The invariants (R28) -/

/-- R28 speaks of the block alone. -/
theorem invariants_outside {s : State} (h : Invariants s) (env : List Event) (draws : Nat) (host : HostState) :
    Invariants { s with env := env, draws := draws, host := host } :=
  ⟨h.distinct, h.ports, h.closedEmpty, h.accBound, h.accQuiet, h.queuedData, h.writing, h.accStart, h.statuses⟩

/-- R28, R281: a block with the link Closed and nothing in it. -/
theorem invariants_of_empty {s : State} (hw : s.wq = []) (hc : s.cur = none) (ha : s.acc = [])
    (hd : ∀ c ∈ s.doneLog, isWriteStatus c.2) : Invariants s where
  distinct := by simp [outstanding, hw, hc]
  ports := by simp [outstanding, hw, hc]
  closedEmpty := fun _ => ⟨hw, hc, ha⟩
  accBound := by simp [ha]
  accQuiet := by simp [ha]
  queuedData := by simp [hw]
  writing := by simp [hc]
  accStart := by simp [ha]
  statuses := hd

/-- R28: the host's reaction changes the host alone. -/
theorem hostReact_keeps_invariants {s t : State} (h : Invariants t) : Invariants (hostReact s t) :=
  invariants_outside h t.env t.draws _

/-- R28: every event keeps the invariants. -/
theorem event_keeps_invariants {e : Event} {s t : State} (hinv : Invariants s) (h : EventNext s e t) :
    Invariants t := by
  cases h with
  | record fmt bytes tail i u hd hw hu => exact hostReact_keeps_invariants (exec_keeps_invariants hinv hu)
  | resetPin => exact hostReact_keeps_invariants (invariants_of_empty rfl rfl rfl hinv.statuses)
  | host ev u hu =>
    refine hostReact_keeps_invariants ?_
    cases hu with
    | hostAlone hs => exact invariants_outside hinv s.env s.draws hs
    | issued hs i _ _ hexec =>
      exact exec_keeps_invariants (invariants_outside hinv s.env s.draws hs) hexec

/-- R28: every step under every law of draws keeps the invariants. -/
theorem stepWith_keeps_invariants {draw : Nat → Event} {s t : State} (hinv : Invariants s)
    (h : stepWith draw s = .next t) : Invariants t := by
  rcases stepWith_next h with ⟨e, rest, -, he⟩ | ⟨-, he | rfl⟩
  · exact event_keeps_invariants (invariants_outside hinv rest s.draws s.host) he
  · exact event_keeps_invariants (invariants_outside hinv s.env (s.draws + 1) s.host) he
  · exact invariants_outside hinv s.env (s.draws + 1) s.host

/-- Settles O51: the machine's own law of draws. -/
theorem invariantsHoldAfterEveryStep : Obligations.InvariantsHoldAfterEveryStep :=
  fun _ _ hinv h => stepWith_keeps_invariants hinv h

/-- Settles O50: nothing is queued, written, buffered, pending or waiting. -/
theorem invariantsHoldAtReset : Obligations.InvariantsHoldAtReset := by
  have hstatuses : ∀ c ∈ State.reset.doneLog, isWriteStatus c.2 := fun c hc => absurd hc List.not_mem_nil
  refine ⟨invariants_of_empty rfl rfl rfl hstatuses, rfl, rfl, rfl, rfl, ?_, ?_⟩
  · exact ⟨fun _ => ⟨rfl, rfl⟩, List.nodup_nil, fun c hc => absurd hc List.not_mem_nil,
      fun p hp => (nomatch hp), fun w hw => absurd hw List.not_mem_nil⟩
  · exact ⟨fun c hc => absurd hc List.not_mem_nil, fun q hq => absurd hq List.not_mem_nil,
      fun a ha => (nomatch ha)⟩

/-! ## The histories (R51) -/

/-- No history loses anything, and the open parameters stay. -/
structure HistoriesGrow (s t : State) : Prop where
  tx : s.txLog <+: t.txLog
  rx : s.rxLog <+: t.rxLog
  frame : s.frameLog <+: t.frameLog
  diag : s.diagLog <+: t.diagLog
  done : s.doneLog <+: t.doneLog
  params : t.params = s.params

/-- R51: where the histories stay. -/
theorem historiesGrow_refl (s : State) : HistoriesGrow s s :=
  ⟨List.prefix_rfl, List.prefix_rfl, List.prefix_rfl, List.prefix_rfl, List.prefix_rfl, rfl⟩

/-- R155, R157: the receiver adds to `rx_log`, `frame_log` and `diag_log`. -/
theorem receive_grows (bs : List Byte) (s : State) : HistoriesGrow s (receive bs s) := by
  cases hl : s.link with
  | closed => rw [receive_of_closed hl]; exact historiesGrow_refl s
  | opened =>
    by_cases hbs : bs = []
    · have hnil : receive bs s = s := by simp only [receive, hl, hbs, List.foldl_nil]
      rw [hnil]
      exact historiesGrow_refl s
    · rw [receive_eq hl hbs]
      exact ⟨List.prefix_rfl, List.prefix_append _ _, List.prefix_append _ _, List.prefix_append _ _,
        List.prefix_rfl, rfl⟩

/-- R51: every instruction. -/
theorem exec_grows {i : Instr} {s t : State} (h : exec i s = .next t) : HistoriesGrow s t := by
  cases exec_next h with
  | wire _ bs => exact { receive_grows bs s with }
  | txEmit => rw [emitNextByte_eq]; exact { historiesGrow_refl s with tx := List.prefix_append _ _ }
  | rxPush => exact { historiesGrow_refl s with rx := List.prefix_append _ _ }
  | accStep _ ev =>
    cases ev with
    | frame f => exact { historiesGrow_refl s with frame := List.prefix_append _ _ }
    | diag d => exact { historiesGrow_refl s with diag := List.prefix_append _ _ }
  | linkClose =>
    exact { historiesGrow_refl s with done := (List.prefix_append _ _).trans (List.prefix_append _ _) }
  | linkTerr =>
    exact { historiesGrow_refl s with
      done := (List.prefix_append _ _).trans (List.prefix_append _ _), diag := List.prefix_append _ _ }
  | wrReqCompleted => exact { historiesGrow_refl s with done := List.prefix_append _ _ }
  | wrDone => exact { historiesGrow_refl s with done := List.prefix_append _ _ }
  | _ => exact { historiesGrow_refl s with }

/-- R51, R281: every event; the reset pin leaves the histories (log entry 9). -/
theorem event_grows {e : Event} {s t : State} (h : EventNext s e t) : HistoriesGrow s t := by
  cases h with
  | record fmt bytes tail i u _ _ hu => exact { exec_grows hu with }
  | resetPin => exact { historiesGrow_refl s with }
  | host ev u hu =>
    cases hu with
    | hostAlone hs => exact { historiesGrow_refl s with }
    | issued hs i _ _ hexec =>
      exact { exec_grows hexec with }

/-- Settles O52: the schedule and the count of draws are no history. -/
theorem historiesOnlyGrow : Obligations.HistoriesOnlyGrow := by
  intro s t h
  have hgrow : HistoriesGrow s t := by
    rcases step_next h with ⟨e, rest, -, he⟩ | ⟨-, he | rfl⟩
    · exact { event_grows he with }
    · exact { event_grows he with }
    · exact { historiesGrow_refl s with }
  exact ⟨hgrow.tx, hgrow.rx, hgrow.frame, hgrow.diag, hgrow.done, hgrow.params⟩

/-! ## The step -/

/-- R212: on a Closed link, with no new frame, the host's whole reaction is to release everybody. -/
theorem hostReact_of_closed {s t : State} (hf : t.frameLog = s.frameLog) (hl : t.link = .closed) :
    hostReact s t = { t with host := releaseAll t.host } := by
  simp [hostReact, hf, hl]

/-- Settles O47: the scheduled pin is taken off and happens, and the host releases everybody. -/
theorem resetPinClearsTheBlock : Obligations.ResetPinClearsTheBlock := by
  intro s rest h
  have hreact := hostReact_of_closed (s := { s with env := rest }) (t := resetPin { s with env := rest }) rfl rfl
  rw [step, stepWith_scheduled h, runEvent, settle, hreact]
  rfl

/-- A record that decodes to a well-formed row is run. -/
theorem runEvent_record {fmt : Format} {bytes tail : List Byte} {i : Instr}
    (hd : decodeRecord fmt bytes = .ok (i, tail)) (hw : i.wf = true) (s : State) :
    runEvent (.record fmt bytes) s = settle s (exec i s) := by
  simp only [runEvent, runRecord, hd, hw, if_true]

/-- Settles O48: the scheduled record is taken off and run, and what it answers settles. -/
theorem stepRunsTheDecodedRecord : Obligations.StepRunsTheDecodedRecord := by
  intro s fmt bytes tail rest i henv hd hw
  rw [step, stepWith_scheduled henv, runEvent_record hd hw]
  exact ⟨fun t ht => by rw [ht]; rfl, fun r hr => by rw [hr]; rfl⟩

/-- R19: no event touches the schedule or the count of draws. -/
theorem event_keeps_schedule {e : Event} {s t : State} (h : EventNext s e t) :
    t.env = s.env ∧ t.draws = s.draws := by
  cases h with
  | record fmt bytes tail i u _ _ hu =>
    obtain ⟨-, henv, hdraws, -⟩ := exec_keeps hu
    exact ⟨henv, hdraws⟩
  | resetPin => exact ⟨rfl, rfl⟩
  | host ev u hu =>
    cases hu with
    | hostAlone hs => exact ⟨rfl, rfl⟩
    | issued hs i _ _ hexec =>
      obtain ⟨-, henv, hdraws, -⟩ := exec_keeps hexec
      exact ⟨henv, hdraws⟩

/-- Settles O49: the drawn event happens or passes as idle; either way one draw is counted. -/
theorem stepDrawsPastTheSchedule : Obligations.StepDrawsPastTheSchedule := by
  refine ⟨fun _ => rfl, fun draw s henv => ?_⟩
  rw [stepWith_drawn henv]
  refine ⟨fun u hu => by rw [hu]; rfl, fun r hr => by rw [hr]; rfl, ?_⟩
  cases ho : runEvent (draw s.draws) { s with draws := s.draws + 1 } with
  | next u =>
    obtain ⟨hu, hdraws⟩ := event_keeps_schedule (runEvent_next ho)
    exact ⟨u, rfl, hdraws, hu.trans henv⟩
  | fault f => cases f
  | refused r => exact ⟨_, rfl, rfl, henv⟩

end Sys2Proof.Proofs
end

section
/-! Proofs about the host's events one by one (45_host_contract.md sections 2 to 4): what each answers, and how
the host reacts. -/

namespace Sys2Proof.Proofs

open Sys2Proof Sys2Proof.Machine Sys2Proof.Laws

/-! ## The host's reaction -/

/-- R212: with nobody pending or waiting there is nobody to release. -/
theorem releaseAll_of_nobody {h : HostState} (hp : h.pending = none) (hw : h.waiters = []) : releaseAll h = h := by
  obtain ⟨pending, waiters, clock, stale, calls, scopes, opens⟩ := h
  cases hp
  cases hw
  simp [releaseAll]

/-- R209, R212: on an open link, with no new frame, a next state settles as it is. -/
theorem settle_of_opened {s t : State} (hf : t.frameLog = s.frameLog) (hl : t.link = .opened) :
    settle s (.next t) = .next t := by
  rw [settle, hostReact_quiet hf hl]

/-- R212: on a Closed link, with no new frame, everybody is released. -/
theorem settle_of_closed {s t : State} (hf : t.frameLog = s.frameLog) (hl : t.link = .closed) :
    settle s (.next t) = .next { t with host := releaseAll t.host } := by
  rw [settle, hostReact_of_closed hf hl]

/-- R212: on a Closed link with nobody left a next state settles as it is. -/
theorem settle_of_nobody {s t : State} (hf : t.frameLog = s.frameLog) (hl : t.link = .closed)
    (hp : t.host.pending = none) (hw : t.host.waiters = []) : settle s (.next t) = .next t := by
  rw [settle_of_closed hf hl, releaseAll_of_nobody hp hw]

/-- A scheduled host event is taken off and happens, and what it answers settles. -/
theorem step_hostEvent {s : State} {h : HostEvent} {rest : List Event} (henv : s.env = .host h :: rest) :
    step s = settle { s with env := rest } (hostStep h { s with env := rest }) :=
  stepWith_scheduled henv

/-- R209: one new frame on an open link is delivered once. -/
theorem hostReact_of_one_frame {s t : State} {f : Frame} (hf : t.frameLog = s.frameLog ++ [f])
    (hl : t.link = .opened) : hostReact s t = { t with host := deliver t.host f } := by
  simp [hostReact, hf, hl]

/-- Settles O57: `deliver` of the one frame, by whether a request is pending and matches. -/
theorem hostDeliversMatchingFrame : Obligations.HostDeliversMatchingFrame := by
  intro s t f hf hl
  rw [hostReact_of_one_frame hf hl]
  refine ⟨fun p hp => ?_, fun hp => by simp only [deliver, hp]⟩
  by_cases hm : Config.hostMatches p.call.cmd p.call.sub f = true
  · simp only [deliver, hp, hm, if_true, fulfil]
  · simp only [deliver, hp, hm, if_false, Bool.false_eq_true]

/-! ## TIMEOUT -/

/-- R213: before its expiry nothing happens to an attempt. -/
theorem hostTimeout_of_lt {s : State} {p : Pending} (hp : s.host.pending = some p)
    (hc : s.host.clock < p.submitted + p.call.timeout) :
    hostTimeout s = .refused (.notEnabled .hostNotTimedOut) := by
  simp only [hostTimeout, hp, if_pos hc]

/-- R215: an expired attempt with others left. -/
theorem hostTimeout_of_retry {s : State} {p : Pending} (hp : s.host.pending = some p)
    (hc : p.submitted + p.call.timeout ≤ s.host.clock) (ha : p.attempt < p.call.maxAttempts) :
    hostTimeout s = .next { s with host := { s.host with
      pending := none, waiters := s.host.waiters ++ [{ call := p.call, made := p.attempt }] } } := by
  simp only [hostTimeout, hp, if_neg (Nat.not_lt.mpr hc), if_pos ha]

/-- R213, R248: the last attempt expired. -/
theorem hostTimeout_of_last {s : State} {p : Pending} (hp : s.host.pending = some p)
    (hc : p.submitted + p.call.timeout ≤ s.host.clock) (ha : p.call.maxAttempts ≤ p.attempt) :
    hostTimeout s = .next { s with
      host := fulfil p.call (.failed (.commandTimeout p.attempt)) { s.host with pending := none } } := by
  simp only [hostTimeout, hp, if_neg (Nat.not_lt.mpr hc), if_neg (Nat.not_lt.mpr ha)]

/-- Every next state of TIMEOUT is one of those two. -/
theorem hostTimeout_next {s t : State} (h : hostTimeout s = .next t) :
    ∃ p, s.host.pending = some p ∧ p.submitted + p.call.timeout ≤ s.host.clock ∧
      (p.attempt < p.call.maxAttempts ∧ t = { s with host := { s.host with
          pending := none, waiters := s.host.waiters ++ [{ call := p.call, made := p.attempt }] } } ∨
        p.call.maxAttempts ≤ p.attempt ∧ t = { s with
          host := fulfil p.call (.failed (.commandTimeout p.attempt)) { s.host with pending := none } }) := by
  obtain ⟨p, hp, hc⟩ := hostEnabled_timeout_iff.mp ⟨t, h⟩
  rcases Nat.lt_or_ge p.attempt p.call.maxAttempts with ha | ha
  · cases (hostTimeout_of_retry hp hc ha).symm.trans h
    exact ⟨p, hp, hc, .inl ⟨ha, rfl⟩⟩
  · cases (hostTimeout_of_last hp hc ha).symm.trans h
    exact ⟨p, hp, hc, .inr ⟨ha, rfl⟩⟩

/-- Settles O58: too early, retry, last attempt. -/
theorem hostTimeoutRetriesThenFails : Obligations.HostTimeoutRetriesThenFails := by
  intro s p rest henv hl hp
  rw [step_hostEvent henv, hostStep]
  refine ⟨fun hc => ?_, fun hc ha => ?_, fun hc ha => ?_⟩
  · rw [hostTimeout_of_lt (s := { s with env := rest }) hp hc, settle]
  · rw [hostTimeout_of_retry (s := { s with env := rest }) hp hc ha]
    exact settle_of_opened rfl hl
  · rw [hostTimeout_of_last (s := { s with env := rest }) hp hc ha]
    exact settle_of_opened rfl hl

/-! ## EXECUTE -/

/-- R223: a suspended caller makes no call. -/
theorem hostCall_of_suspended {c : Call} {s : State} (h : c.caller ∈ suspended s.host) :
    hostCall c s = .refused (.notEnabled .hostCallerSuspended) := if_pos h

/-- R220: a call that is answered before any attempt. -/
theorem hostCall_of_some {c : Call} {s : State} {st : Status} (h : c.caller ∉ suspended s.host)
    (ha : answerAtOnce c s = some st) :
    hostCall c s = .next { s with host := fulfil c (.failed st) s.host } := by
  simp only [hostCall, if_neg h, ha]

/-- R211: a call that waits. -/
theorem hostCall_of_none {c : Call} {s : State} (h : c.caller ∉ suspended s.host)
    (ha : answerAtOnce c s = none) : hostCall c s = .next { s with host := joinWaiters c s.host } := by
  simp only [hostCall, if_neg h, ha]

/-- R220: the answer at once on a Closed link, in the order of the tests. -/
theorem answerAtOnce_of_closed {c : Call} {s : State} (hl : s.link = .closed) :
    answerAtOnce c s = some (if c.data.length > s.params.maxData then .frameTooLarge
      else if c.maxAttempts = 0 then .commandTimeout 0 else .linkClosed) := by
  simp only [answerAtOnce, hl]
  split
  · rfl
  · split <;> rfl

/-- R220: data that fit no frame. -/
theorem answerAtOnce_of_tooLarge {c : Call} {s : State} (hd : s.params.maxData < c.data.length) :
    answerAtOnce c s = some .frameTooLarge := if_pos hd

/-- R220: no attempt allowed. -/
theorem answerAtOnce_of_zero {c : Call} {s : State} (hd : c.data.length ≤ s.params.maxData)
    (hm : c.maxAttempts = 0) : answerAtOnce c s = some (.commandTimeout 0) := by
  rw [answerAtOnce, if_neg (Nat.not_lt.mpr hd), if_pos hm]

/-- R220: a call that waits for its turn. -/
theorem answerAtOnce_eq_none {c : Call} {s : State} :
    answerAtOnce c s = none ↔ c.data.length ≤ s.params.maxData ∧ 0 < c.maxAttempts ∧ s.link = .opened := by
  constructor
  · intro h
    unfold answerAtOnce at h
    repeat' split at h
    all_goals cases h
    exact ⟨by omega, by omega, ‹_›⟩
  · rintro ⟨hd, hm, hl⟩
    simp only [answerAtOnce, if_neg (Nat.not_lt.mpr hd), if_neg (Nat.ne_of_gt hm), hl]

/-- Every next state of EXECUTE: an answer at once, or one more waiter. -/
theorem hostCall_next {c : Call} {s t : State} (h : hostCall c s = .next t) :
    c.caller ∉ suspended s.host ∧
      ((∃ st, t = { s with host := fulfil c (.failed st) s.host }) ∨
        c.data.length ≤ s.params.maxData ∧ 0 < c.maxAttempts ∧
          t = { s with host := joinWaiters c s.host }) := by
  by_cases hs : c.caller ∈ suspended s.host
  · cases (hostCall_of_suspended hs).symm.trans h
  · refine ⟨hs, ?_⟩
    cases ha : answerAtOnce c s with
    | some st =>
      cases (hostCall_of_some hs ha).symm.trans h
      exact .inl ⟨st, rfl⟩
    | none =>
      cases (hostCall_of_none hs ha).symm.trans h
      obtain ⟨hd, hm, -⟩ := answerAtOnce_eq_none.mp ha
      exact .inr ⟨hd, hm, rfl⟩

/-- R207, R212: on a Closed link nobody is suspended. -/
theorem suspended_of_closed {s : State} (hinv : HostInvariants s) (hl : s.link = .closed) :
    suspended s.host = [] := by
  obtain ⟨hp, hw⟩ := hinv.closedReleased hl
  simp [suspended, openCalls, hp, hw]

/-! ## SUBMIT -/

/-- R208: the first waiter's attempt is registered and written. -/
theorem hostSubmit_of_waiter {s : State} {w : Waiter} {ws : List Waiter} (hl : s.link = .opened)
    (hp : s.host.pending = none) (hw : s.host.waiters = w :: ws) (ho : hostPort ∉ outstanding s) :
    hostSubmit s = exec (.wrReq hostPort w.call.cmd w.call.sub w.call.data)
      { s with host := registered w ws s.params.maxData s.host } := by
  simp only [hostSubmit, hl, hp, hw, if_neg ho, exec]

/-- R208: data that fit a frame are queued, with the request pending. -/
theorem hostSubmit_queues {s : State} {w : Waiter} {ws : List Waiter} (hl : s.link = .opened)
    (hp : s.host.pending = none) (hw : s.host.waiters = w :: ws) (ho : hostPort ∉ outstanding s)
    (hn : 0 < s.params.nreq) (hd : w.call.data.length ≤ s.params.maxData) :
    hostSubmit s = .next (setResult none (enqueue
      { r := hostPort, cmd := w.call.cmd, sub := w.call.sub, data := w.call.data }
      { s with host := { s.host with
        waiters := ws
        pending := some { call := w.call, attempt := w.made + 1, submitted := s.host.clock } } })) := by
  rw [hostSubmit_of_waiter hl hp hw ho, registered, if_neg (Nat.not_lt.mpr hd)]
  exact exec_wrReq_of_opened hn ho hd hl

/-- R208, R211: SUBMIT needs the link, no attempt in flight, a waiter, and the host's port. -/
theorem hostSubmit_refused {s : State}
    (h : s.link = .closed ∨ s.host.pending.isSome = true ∨ s.host.waiters = [] ∨ hostPort ∈ outstanding s) :
    hostSubmit s = .refused (.notEnabled .hostCannotSubmit) := by
  unfold hostSubmit
  split
  · rename_i w rest hl hp hw
    simp only [hl, hp, hw, reduceCtorEq, Option.isSome_none, Bool.false_eq_true, false_or] at h
    exact if_pos h
  · rfl

/-- Every next state of SUBMIT is that of `hostSubmit_of_waiter`. -/
theorem hostSubmit_next {s t : State} (h : hostSubmit s = .next t) :
    ∃ w ws, s.link = .opened ∧ s.host.pending = none ∧ s.host.waiters = w :: ws ∧ hostPort ∉ outstanding s ∧
      exec (.wrReq hostPort w.call.cmd w.call.sub w.call.data)
        { s with host := registered w ws s.params.maxData s.host } = .next t := by
  have henabled := hostEnabled_submit_iff.mp ⟨t, h⟩
  obtain ⟨hl, hp, hw, ho, -⟩ := henabled
  obtain ⟨w, ws, hw⟩ := List.exists_cons_of_ne_nil hw
  exact ⟨w, ws, hl, hp, hw, ho, (hostSubmit_of_waiter hl hp hw ho).symm.trans h⟩

/-- Settles O56: the call on an open and on a Closed link, the suspended caller, and SUBMIT. -/
theorem hostExecuteAndSubmit : Obligations.HostExecuteAndSubmit := by
  refine ⟨fun c s rest henv hl hs => ?opened, fun c s rest henv hl hinv => ?closed,
    fun c s rest henv hs => ?suspended, fun s rest henv => ⟨?submit, ?refused⟩⟩
  case opened =>
    rw [step_hostEvent henv, hostStep]
    refine ⟨fun hd => ?_, fun hd hm => ?_, fun hd hm => ?_⟩
    · rw [hostCall_of_some (s := { s with env := rest }) hs (answerAtOnce_of_tooLarge hd)]
      exact settle_of_opened rfl hl
    · rw [hostCall_of_some (s := { s with env := rest }) hs (answerAtOnce_of_zero hd hm)]
      exact settle_of_opened rfl hl
    · rw [hostCall_of_none (s := { s with env := rest }) hs (answerAtOnce_eq_none.mpr ⟨hd, hm, hl⟩)]
      exact settle_of_opened rfl hl
  case closed =>
    obtain ⟨hp, hw⟩ := hinv.closedReleased hl
    rw [step_hostEvent henv, hostStep, hostCall_of_some (s := { s with env := rest })
      (by simp [suspended_of_closed hinv hl]) (answerAtOnce_of_closed hl)]
    exact settle_of_nobody rfl hl hp hw
  case suspended => rw [step_hostEvent henv, hostStep, hostCall_of_suspended (s := { s with env := rest }) hs, settle]
  case submit =>
    intro w ws hl hp hw ho hn hd
    rw [step_hostEvent henv, hostStep, hostSubmit_queues (s := { s with env := rest }) hl hp hw ho hn hd]
    exact settle_of_opened rfl hl
  case refused =>
    intro h
    rw [step_hostEvent henv, hostStep, hostSubmit_refused (s := { s with env := rest }) h, settle]

/-! ## Scopes: `open` and `close` -/

/-- R223: a suspended caller does not open. -/
theorem hostAcquire_of_suspended {c : Nat} {ok : Bool} {s : State} (h : c ∈ suspended s.host) :
    hostAcquire c ok s = .refused (.notEnabled .hostCallerSuspended) := if_pos h

/-- R222: `open` on a Closed link with the port acquired. -/
theorem hostAcquire_ok {c : Nat} {s : State} (h : c ∉ suspended s.host) (hl : s.link = .closed) :
    hostAcquire c true s = .next (setResult (some (.status (.ok none))) (openLink { s with
      host := { s.host with scopes := c :: s.host.scopes, opens := s.host.opens ++ [(c, .ok none)] } })) := by
  have ha : openAnswer true s = .ok none := by simp [openAnswer, hl]
  rw [hostAcquire, if_neg h, ha, if_pos rfl]
  exact exec_linkOpen_of_closed (portOk := true) hl

/-- R177: every other LINK.OPEN is answered ConnectionError. -/
theorem exec_linkOpen_fails {ok : Bool} {s : State} (h : s.link = .opened ∨ ok = false) :
    exec (.linkOpen ok) s = .next (setResult (some (.status .connectionError)) s) := by
  cases hl : s.link with
  | opened => exact exec_linkOpen_of_opened hl
  | closed =>
    obtain rfl : ok = false := h.resolve_left (by simp [hl])
    exact exec_linkOpen_of_closed hl

/-- R222: any other `open` is answered ConnectionError, and nobody enters a scope. -/
theorem hostAcquire_fails {c : Nat} {ok : Bool} {s : State} (h : c ∉ suspended s.host)
    (ho : s.link = .opened ∨ ok = false) :
    hostAcquire c ok s = .next (setResult (some (.status .connectionError)) { s with
      host := { s.host with opens := s.host.opens ++ [(c, .connectionError)] } }) := by
  have ha : openAnswer ok s = .connectionError := by
    rcases ho with hl | rfl
    · simp [openAnswer, hl]
    · simp [openAnswer]
  rw [hostAcquire, if_neg h, ha, if_neg (by simp)]
  exact exec_linkOpen_fails (ok := ok) ho

/-- R222, R224: `close` is LINK.CLOSE behind the end of the caller's scope. -/
theorem hostLeave_of_allowed {c : Nat} {path : ExitPath} {s : State}
    (h : c ∉ suspended s.host ∨ (path = .cancellation ∧ c ∈ s.host.scopes)) :
    hostLeave c path s =
      exec .linkClose { s with host := { s.host with scopes := s.host.scopes.erase c } } := by
  rw [hostLeave, if_neg fun hn => h.elim (fun h => h hn.1) hn.2]
  rfl

/-- R223: a suspended caller does not close, but by the cancellation that takes it out of its scope. -/
theorem hostLeave_of_suspended {c : Nat} {path : ExitPath} {s : State} (h : c ∈ suspended s.host)
    (hp : path ≠ .cancellation ∨ c ∉ s.host.scopes) :
    hostLeave c path s = .refused (.notEnabled .hostCallerSuspended) :=
  if_pos ⟨h, fun hn => hp.elim (fun hp => hp hn.1) fun hp => hp hn.2⟩

/-- The host with other scopes and answers to `open`, everything else as it was. -/
def HostState.withScopes (h : HostState) (scopes : List Nat) (opens : List (Nat × Status)) : HostState :=
  { h with scopes := scopes, opens := opens }

/-- Every next state of `open` is one of LINK.OPEN. -/
theorem hostAcquire_next {c : Nat} {ok : Bool} {s t : State} (h : hostAcquire c ok s = .next t) :
    ∃ scopes opens, exec (.linkOpen ok) { s with host := HostState.withScopes s.host scopes opens } = .next t := by
  unfold hostAcquire at h
  split at h
  · cases h
  · exact ⟨_, _, h⟩

/-- Every next state of `close` is one of LINK.CLOSE. -/
theorem hostLeave_next {c : Nat} {path : ExitPath} {s t : State} (h : hostLeave c path s = .next t) :
    ∃ scopes opens, exec .linkClose { s with host := HostState.withScopes s.host scopes opens } = .next t := by
  unfold hostLeave at h
  split at h
  · cases h
  · exact ⟨_, _, h⟩

/-- R178: LINK.CLOSE always answers, leaves the link Closed, and delivers no frame. -/
theorem exec_linkClose_closes (s : State) :
    ∃ t, exec .linkClose s = .next t ∧ t.link = .closed ∧ t.frameLog = s.frameLog ∧ t.host = s.host := by
  cases hl : s.link with
  | closed => exact ⟨_, exec_linkClose_of_closed hl, hl, rfl, rfl⟩
  | opened => exact ⟨_, exec_linkClose_of_opened hl, rfl, rfl, rfl⟩

/-- Settles O3: `open` by its three cases, `close` by whether the caller may. -/
theorem hostScopeClosesOnEveryExit : Obligations.HostScopeClosesOnEveryExit := by
  refine ⟨fun c ok s rest henv => ⟨?acquired, ?failed, ?suspended⟩,
    fun c path s rest henv => ⟨?left, ?refused⟩⟩
  case acquired =>
    rintro hs hl rfl
    rw [step_hostEvent henv, hostStep, hostAcquire_ok (s := { s with env := rest }) hs hl]
    exact settle_of_opened rfl rfl
  case failed =>
    intro hs hinv ho
    rw [step_hostEvent henv, hostStep, hostAcquire_fails (s := { s with env := rest }) hs ho]
    cases hl : s.link with
    | opened => exact hl ▸ settle_of_opened rfl hl
    | closed =>
      obtain ⟨hp, hw⟩ := hinv.closedReleased hl
      exact hl ▸ settle_of_nobody rfl hl hp hw
  case suspended =>
    intro hs
    rw [step_hostEvent henv, hostStep, hostAcquire_of_suspended (s := { s with env := rest }) hs, settle]
  case left =>
    intro h
    obtain ⟨t, hexec, hclosed, hframes, hhost⟩ := exec_linkClose_closes
      { s with env := rest, host := { s.host with scopes := s.host.scopes.erase c } }
    refine ⟨t, hexec, hclosed, ?_⟩
    rw [step_hostEvent henv, hostStep, hostLeave_of_allowed (s := { s with env := rest }) h]
    simp only [hexec]
    rw [settle_of_closed (s := { s with env := rest }) hframes hclosed, hhost]
  case refused =>
    intro hs hp
    rw [step_hostEvent henv, hostStep, hostLeave_of_suspended (s := { s with env := rest }) hs hp, settle]

end Sys2Proof.Proofs
end

section
/-! Proofs about the host over every event (45_host_contract.md): the actions an event is made of, the account of
the calls (R214, R220), and the host's invariants. -/

namespace Sys2Proof.Proofs

open Sys2Proof Sys2Proof.Machine Sys2Proof.Laws

/-! ## Actions -/

/-- One action of the host: from the state before, by the calls it takes in and the results it hands out, to the
state after. -/
inductive HostAct (maxData : Nat) (h : HostState) : List Call → List (Nat × CallResult) → HostState → Prop where
  /-- Clock, log of stale frames, scopes and answers to `open` are nobody's call. -/
  | aside (h' : HostState) (hp : h'.pending = h.pending) (hw : h'.waiters = h.waiters) (hc : h'.calls = h.calls)
      (hk : h.clock ≤ h'.clock) : HostAct maxData h [] [] h'
  /-- R220: before any attempt. -/
  | answered (c : Call) (st : Status) (hs : c.caller ∉ suspended h) :
      HostAct maxData h [c] [(c.caller, .failed st)] (fulfil c (.failed st) h)
  /-- R211. -/
  | joined (c : Call) (hs : c.caller ∉ suspended h) (hd : c.data.length ≤ maxData) (hm : 0 < c.maxAttempts) :
      HostAct maxData h [c] [] (joinWaiters c h)
  /-- R208. -/
  | registered (w : Waiter) (ws : List Waiter) (hp : h.pending = none) (hw : h.waiters = w :: ws) :
      HostAct maxData h [] []
        { h with
          pending := some { call := w.call, attempt := w.made + 1, submitted := h.clock }, waiters := ws }
  /-- R208, FrameTooLarge of the WR.REQ. -/
  | tooLarge (w : Waiter) (ws : List Waiter) (hp : h.pending = none) (hw : h.waiters = w :: ws)
      (hd : maxData < w.call.data.length) :
      HostAct maxData h [] [(w.call.caller, .failed .frameTooLarge)]
        (fulfil w.call (.failed .frameTooLarge) { h with pending := none, waiters := ws })
  /-- R215. -/
  | retried (p : Pending) (hp : h.pending = some p) (ha : p.attempt < p.call.maxAttempts) :
      HostAct maxData h [] []
        { h with pending := none, waiters := h.waiters ++ [{ call := p.call, made := p.attempt }] }
  /-- R209 with a match, R213 with the last attempt. -/
  | fulfilled (p : Pending) (r : CallResult) (hp : h.pending = some p)
      (hr : (∃ f, r = .frame f) ∨ ∃ k, r = .failed (.commandTimeout k)) :
      HostAct maxData h [] [(p.call.caller, r)] (fulfil p.call r { h with pending := none })
  /-- R212. -/
  | released : HostAct maxData h [] ((openCalls h).map fun c => (c.caller, .failed .linkClosed)) (releaseAll h)

/-- Actions one after the other; only the first may take in a call. -/
inductive HostActs (maxData : Nat) (h : HostState) : List Call → List (Nat × CallResult) → HostState → Prop where
  | first {cs new h'} (ha : HostAct maxData h cs new h') : HostActs maxData h cs new h'
  | andThen {cs new h' new' h''} (hs : HostActs maxData h cs new h') (ha : HostAct maxData h' [] new' h'') :
      HostActs maxData h cs (new ++ new') h''

/-- The call that an event adds (R220). -/
def calledWith (e : Event) : List Call :=
  match e with
  | .host (.execute c) => [c]
  | .host (.acquire _ _) | .host (.leave _ _) | .host .submit | .host .timeout | .host .tick
  | .record _ _ | .resetPin => []

/-- R220: its caller is the one that the event adds. -/
theorem called_eq (e : Event) : called e = (calledWith e).map Call.caller := by
  match e with
  | .host (.execute c) => rfl
  | .host (.acquire _ _) | .host (.leave _ _) | .host .submit | .host .timeout | .host .tick
  | .record _ _ | .resetPin => rfl

/-! ## Every event is actions -/

variable {maxData : Nat}

/-- Nothing that concerns the host. -/
theorem hostAct_refl (h : HostState) : HostAct maxData h [] [] h := .aside h rfl rfl rfl (Nat.le_refl _)

/-- R209: DELIVER is one action. -/
theorem hostAct_deliver (h : HostState) (f : Frame) : ∃ new, HostAct maxData h [] new (deliver h f) := by
  unfold deliver
  split
  · exact ⟨_, .aside _ rfl rfl rfl (Nat.le_refl _)⟩
  · rename_i p hp
    split
    · exact ⟨_, .fulfilled p _ hp (.inl ⟨f, rfl⟩)⟩
    · exact ⟨_, .aside _ rfl rfl rfl (Nat.le_refl _)⟩

/-- R209: several frames are one DELIVER each. -/
theorem hostActs_deliver (fs : List Frame) {h h' : HostState} {cs : List Call} {new : List (Nat × CallResult)}
    (hs : HostActs maxData h cs new h') : ∃ new', HostActs maxData h cs new' (fs.foldl deliver h') := by
  induction fs generalizing h' new with
  | nil => exact ⟨new, hs⟩
  | cons f fs ih =>
    obtain ⟨newf, hf⟩ := hostAct_deliver (maxData := maxData) h' f
    exact ih (hs.andThen hf)

/-- R209, R212: an action and then the host's reaction to the block's step. -/
theorem hostActs_hostReact {s t : State} {h : HostState} {cs : List Call} {new : List (Nat × CallResult)}
    (ha : HostAct maxData h cs new t.host) : ∃ new', HostActs maxData h cs new' (hostReact s t).host := by
  obtain ⟨new', hs⟩ := hostActs_deliver (t.frameLog.drop s.frameLog.length) (.first ha)
  simp only [hostReact]
  split
  · exact ⟨_, hs.andThen .released⟩
  · exact ⟨new', hs⟩

/-- Other scopes and answers to `open` are nobody's call. -/
theorem hostAct_withScopes (h : HostState) (scopes : List Nat) (opens : List (Nat × Status)) :
    HostAct maxData h [] [] (HostState.withScopes h scopes opens) :=
  .aside _ rfl rfl rfl (Nat.le_refl _)

/-- Every host event is one action on the host. -/
theorem hostStep_acts {ev : HostEvent} {s t : State} (h : hostStep ev s = .next t) :
    ∃ new, HostAct s.params.maxData s.host (calledWith (.host ev)) new t.host := by
  cases ev with
  | acquire c ok =>
    obtain ⟨scopes, opens, hexec⟩ := hostAcquire_next h
    obtain ⟨hhost, -⟩ := exec_keeps hexec
    rw [hhost]
    exact ⟨_, hostAct_withScopes s.host scopes opens⟩
  | leave c path =>
    obtain ⟨scopes, opens, hexec⟩ := hostLeave_next h
    obtain ⟨hhost, -⟩ := exec_keeps hexec
    rw [hhost]
    exact ⟨_, hostAct_withScopes s.host scopes opens⟩
  | execute c =>
    obtain ⟨hs, ⟨st, rfl⟩ | ⟨hd, hm, rfl⟩⟩ := hostCall_next h
    · exact ⟨_, .answered c st hs⟩
    · exact ⟨_, .joined c hs hd hm⟩
  | submit =>
    obtain ⟨w, ws, -, hp, hw, -, hexec⟩ := hostSubmit_next h
    obtain ⟨hhost, -⟩ := exec_keeps hexec
    rw [hhost]
    by_cases hd : s.params.maxData < w.call.data.length
    · simp only [registered, if_pos hd]
      exact ⟨_, .tooLarge w ws hp hw hd⟩
    · simp only [registered, if_neg hd]
      exact ⟨_, .registered w ws hp hw⟩
  | timeout =>
    obtain ⟨p, hp, -, ⟨ha, rfl⟩ | ⟨-, rfl⟩⟩ := hostTimeout_next h
    · exact ⟨_, .retried p hp ha⟩
    · exact ⟨_, .fulfilled p _ hp (.inr ⟨_, rfl⟩)⟩
  | tick =>
    cases h
    exact ⟨_, .aside _ rfl rfl rfl (Nat.le_succ _)⟩

/-- Every event is one action of the host and its reaction. -/
theorem event_hostActs {e : Event} {s t : State} (h : EventNext s e t) :
    ∃ new, HostActs s.params.maxData s.host (calledWith e) new t.host := by
  cases h with
  | record fmt bytes tail i u _ _ hu =>
    obtain ⟨hhost, -⟩ := exec_keeps hu
    have ha : HostAct s.params.maxData s.host [] [] u.host := by
      rw [hhost]
      exact hostAct_refl s.host
    exact hostActs_hostReact ha
  | resetPin => exact hostActs_hostReact (t := resetPin s) (hostAct_refl s.host)
  | host ev u _ he =>
    obtain ⟨new, ha⟩ := hostStep_acts he
    exact hostActs_hostReact ha

/-! ## The account of the calls (R214, R220) -/

/-- One action hands out its results and nothing else. -/
theorem HostAct.grows {h h' : HostState} {cs : List Call} {new : List (Nat × CallResult)}
    (ha : HostAct maxData h cs new h') : h'.calls = h.calls ++ new := by
  cases ha with
  | aside _ _ _ hc => simp [hc]
  | answered | tooLarge | fulfilled => rfl
  | joined | registered | retried => exact (List.append_nil _).symm
  | released => simp [releaseAll, openCalls, Function.comp_def]

/-- R214: what one action does to the suspended callers. -/
theorem HostAct.account {h h' : HostState} {cs : List Call} {new : List (Nat × CallResult)}
    (ha : HostAct maxData h cs new h') :
    (new.map Prod.fst ++ suspended h').Perm (suspended h ++ cs.map Call.caller) := by
  cases ha with
  | aside _ hp hw => simp [suspended, openCalls, hp, hw]
  | answered c st hs => exact List.perm_append_comm (l₁ := [c.caller])
  | joined c => simp [suspended, openCalls, joinWaiters]
  | registered w ws hp hw | tooLarge w ws hp hw => simp [suspended, openCalls, hp, hw, fulfil]
  | retried p hp => simp [suspended, openCalls, hp]
  | fulfilled p r hp => simp [suspended, openCalls, hp, fulfil]
  | released => simp [suspended, openCalls, releaseAll, Function.comp_def]

/-- R220: of several actions. -/
theorem HostActs.grows {h h' : HostState} {cs : List Call} {new : List (Nat × CallResult)}
    (hs : HostActs maxData h cs new h') : h'.calls = h.calls ++ new := by
  induction hs with
  | first ha => exact ha.grows
  | andThen _ ha ih => rw [ha.grows, ih, List.append_assoc]

/-- R214: of several actions. -/
theorem HostActs.account {h h' : HostState} {cs : List Call} {new : List (Nat × CallResult)}
    (hs : HostActs maxData h cs new h') :
    (new.map Prod.fst ++ suspended h').Perm (suspended h ++ cs.map Call.caller) := by
  induction hs with
  | first ha => exact ha.account
  | andThen _ ha ih =>
    have hlast := ha.account
    rw [List.map_nil, List.append_nil] at hlast
    rw [List.map_append, List.append_assoc]
    exact (hlast.append_left _).trans ih

/-- Settles O60: the account of the event's actions. -/
theorem hostAnswersEveryCallOnce : Obligations.HostAnswersEveryCallOnce := by
  intro e s t h
  obtain ⟨new, hs⟩ := event_hostActs (runEvent_next h)
  exact ⟨new, hs.grows, called_eq e ▸ hs.account⟩

/-! ## The host's invariants -/

/-- The host's invariants but for the link (R206, R215, R220, R223). -/
structure HostOk (maxData : Nat) (h : HostState) : Prop where
  distinct : (suspended h).Nodup
  fits : ∀ c ∈ openCalls h, c.data.length ≤ maxData
  attempt : ∀ p, h.pending = some p →
    1 ≤ p.attempt ∧ p.attempt ≤ p.call.maxAttempts ∧ p.submitted ≤ h.clock
  attemptsLeft : ∀ w ∈ h.waiters, w.made < w.call.maxAttempts

/-- The host's invariants of a state are these and the release on a Closed link. -/
theorem hostInvariants_iff {s : State} :
    HostInvariants s ↔ (s.link = .closed → s.host.pending = none ∧ s.host.waiters = []) ∧
      HostOk s.params.maxData s.host :=
  ⟨fun ⟨h1, h2, h3, h4, h5⟩ => ⟨h1, h2, h3, h4, h5⟩, fun ⟨h1, h2, h3, h4, h5⟩ => ⟨h1, h2, h3, h4, h5⟩⟩

/-- The calls open after an action were open before it or are taken in. -/
theorem HostAct.openCalls_subset {h h' : HostState} {cs : List Call} {new : List (Nat × CallResult)}
    (ha : HostAct maxData h cs new h') : openCalls h' ⊆ openCalls h ++ cs := by
  cases ha with
  | aside _ hp hw => simp [openCalls, hp, hw]
  | answered c => exact List.subset_append_left _ _
  | joined c => simp [openCalls, joinWaiters]
  | registered w ws hp hw => simp [openCalls, hp, hw]
  | tooLarge w ws hp hw => simp [openCalls, hp, hw, fulfil]
  | retried p hp => simp [openCalls, hp]
  | fulfilled p r hp => simp [openCalls, hp, fulfil]
  | released => simp [openCalls, releaseAll]

/-- R223: a caller that an action takes in was not suspended. -/
theorem HostAct.called_new {h h' : HostState} {cs : List Call} {new : List (Nat × CallResult)}
    (ha : HostAct maxData h cs new h') (hn : (suspended h).Nodup) :
    (suspended h ++ cs.map Call.caller).Nodup := by
  cases ha with
  | answered c st hs | joined c hs =>
    exact (List.perm_append_comm (l₁ := [c.caller])).nodup_iff.mp (List.nodup_cons.mpr ⟨hs, hn⟩)
  | _ => simpa using hn

/-- Every action keeps the host's invariants. -/
theorem HostAct.keeps_ok {h h' : HostState} {cs : List Call} {new : List (Nat × CallResult)}
    (ha : HostAct maxData h cs new h') (hok : HostOk maxData h) : HostOk maxData h' := by
  obtain ⟨distinct, fits, attempt, left⟩ := hok
  have hdistinct : (suspended h').Nodup :=
    (List.nodup_append.mp (ha.account.nodup_iff.mpr (ha.called_new distinct))).2.1
  have hsub := ha.openCalls_subset
  cases ha with
  | aside _ hp hw _ hk =>
    refine ⟨hdistinct, fun c hc => fits c (by simpa using hsub hc), fun p hpp => ?_, hw ▸ left⟩
    obtain ⟨h1, h2, h3⟩ := attempt p (hp ▸ hpp)
    exact ⟨h1, h2, Nat.le_trans h3 hk⟩
  | answered => exact ⟨hdistinct, fits, attempt, left⟩
  | joined c _ hd hm =>
    refine ⟨hdistinct, fun c' hc => ?_, attempt, fun w hw => ?_⟩
    · rcases List.mem_append.mp (hsub hc) with hc | hc
      · exact fits c' hc
      · rw [List.mem_singleton.mp hc]
        exact hd
    · rcases List.mem_append.mp hw with hw | hw
      · exact left w hw
      · rw [List.mem_singleton.mp hw]
        exact hm
  | registered w ws hp hw =>
    refine ⟨hdistinct, fun c hc => fits c (by simpa using hsub hc), ?_, fun w' hw' => left w' (by simp_all)⟩
    rintro _ ⟨⟩
    exact ⟨Nat.le_add_left _ _, left w (by simp [hw]), Nat.le_refl _⟩
  | tooLarge w ws hp hw =>
    exact ⟨hdistinct, fun c hc => fits c (by simpa using hsub hc), fun p hp => (nomatch hp),
      fun w' hw' => left w' (by simp_all [fulfil])⟩
  | retried p hp ha =>
    refine ⟨hdistinct, fun c hc => fits c (by simpa using hsub hc), fun p hp => (nomatch hp), fun w hw => ?_⟩
    rcases List.mem_append.mp hw with hw | hw
    · exact left w hw
    · rw [List.mem_singleton.mp hw]
      exact ha
  | fulfilled p r hp =>
    exact ⟨hdistinct, fun c hc => fits c (by simpa using hsub hc), fun p hp => (nomatch hp), left⟩
  | released =>
    exact ⟨hdistinct, fun c hc => fits c (by simpa using hsub hc), fun p hp => (nomatch hp),
      fun w hw => absurd hw List.not_mem_nil⟩

/-- So do several. -/
theorem HostActs.keeps_ok {h h' : HostState} {cs : List Call} {new : List (Nat × CallResult)}
    (hs : HostActs maxData h cs new h') (hok : HostOk maxData h) : HostOk maxData h' := by
  induction hs with
  | first ha => exact ha.keeps_ok hok
  | andThen _ ha ih => exact ha.keeps_ok ih

/-- The calls open after several actions. -/
theorem HostActs.openCalls_subset {h h' : HostState} {cs : List Call} {new : List (Nat × CallResult)}
    (hs : HostActs maxData h cs new h') : openCalls h' ⊆ openCalls h ++ cs := by
  induction hs with
  | first ha => exact ha.openCalls_subset
  | andThen _ ha ih => exact fun c hc => ih (by simpa using ha.openCalls_subset hc)

/-- R207, R212: after an event that leaves the link Closed nobody is pending or waiting. -/
theorem event_releases {e : Event} {s t : State} (h : EventNext s e t) (hl : t.link = .closed) :
    t.host.pending = none ∧ t.host.waiters = [] := by
  cases h with
  | record | resetPin | host => exact hostReact_closed hl

/-- Every event keeps the host's invariants. -/
theorem event_keeps_hostInvariants {e : Event} {s t : State} (hinv : HostInvariants s) (h : EventNext s e t) :
    HostInvariants t := by
  obtain ⟨new, hs⟩ := event_hostActs h
  have hok := hs.keeps_ok (hostInvariants_iff.mp hinv).2
  rw [← (event_grows h).params] at hok
  exact hostInvariants_iff.mpr ⟨event_releases h, hok⟩

/-- The host's invariants do not speak of the schedule or the draws. -/
theorem hostInvariants_outside {s : State} (h : HostInvariants s) (env : List Event) (draws : Nat) :
    HostInvariants { s with env := env, draws := draws } :=
  ⟨h.closedReleased, h.callersDistinct, h.fits, h.attempt, h.attemptsLeft⟩

/-- Every step under every law of draws keeps the host's invariants. -/
theorem stepWith_keeps_hostInvariants {draw : Nat → Event} {s t : State} (hinv : HostInvariants s)
    (h : stepWith draw s = .next t) : HostInvariants t := by
  rcases stepWith_next h with ⟨e, rest, -, he⟩ | ⟨-, he | rfl⟩
  · exact event_keeps_hostInvariants (hostInvariants_outside hinv rest s.draws) he
  · exact event_keeps_hostInvariants (hostInvariants_outside hinv s.env (s.draws + 1)) he
  · exact hostInvariants_outside hinv s.env (s.draws + 1)

/-! ## `0x03` kept out (R224) -/

/-- R180: a request after an instruction was there before, or is the one asked for. -/
theorem exec_requests {i : Instr} {s t : State} (h : exec i s = .next t) :
    ∀ q ∈ requests t, q ∈ requests s ∨ i = .wrReq q.r q.cmd q.sub q.data := by
  intro q hq
  cases exec_next h with
  | txEmit _ a hl hc =>
    rw [emitNextByte_eq] at hq
    exact .inl (by simpa [requests, hc] using hq)
  | accStep => exact .inl (by simpa [requests] using hq)
  | wire => exact .inl (by simpa [requests] using hq)
  | linkOpen | linkClose | linkTerr => exact absurd hq List.not_mem_nil
  | wrReqQueued r cmd sub data =>
    have hq : q ∈ requests s ++ [⟨r, cmd, sub, data⟩] := by simpa [requests] using hq
    rcases List.mem_append.mp hq with hq | hq
    · exact .inl hq
    · obtain rfl := List.mem_singleton.mp hq
      exact .inr rfl
  | wrGrant _ q rest hl hc hw => exact .inl (by simpa [requests, hc, hw] using hq)
  | wrDone => exact .inl (List.mem_append_right _ hq)
  | _ => exact .inl hq

/-- R224 in terms of the calls and the requests. -/
theorem etxKeptOut_iff {s : State} :
    EtxKeptOut s ↔ (∀ c ∈ openCalls s.host, Config.etxByte ∉ c.data) ∧
      ∀ q ∈ requests s, Config.etxByte ∉ q.data := by
  constructor
  · rintro ⟨calls, queue, writing⟩
    refine ⟨calls, fun q hq => ?_⟩
    rcases List.mem_append.mp hq with hq | hq
    · obtain ⟨a, ha, rfl⟩ := List.mem_map.mp hq
      exact writing a (by simpa using ha)
    · exact queue q hq
  · rintro ⟨calls, requested⟩
    exact ⟨calls, fun q hq => requested q (List.mem_append_right _ hq),
      fun a ha => requested a.req (List.mem_append_left _ (by simp [ha]))⟩

/-- R180: an instruction that is no WR.REQ asks for nothing. -/
theorem exec_requests_of_ne {i : Instr} {s t : State} (h : exec i s = .next t)
    (hi : ∀ r cmd sub data, i ≠ .wrReq r cmd sub data) : ∀ q ∈ requests t, q ∈ requests s :=
  fun q hq => (exec_requests h q hq).resolve_right (hi _ _ _ _)

/-- R208: of the host's events SUBMIT alone asks for a write. -/
theorem hostStep_requests_of_ne {ev : HostEvent} {s t : State} (h : hostStep ev s = .next t)
    (hev : ev ≠ .submit) : ∀ q ∈ requests t, q ∈ requests s := by
  intro q hq
  cases ev with
  | acquire c ok =>
    obtain ⟨scopes, opens, hexec⟩ := hostAcquire_next h
    exact exec_requests_of_ne hexec (by simp) q hq
  | leave c path =>
    obtain ⟨scopes, opens, hexec⟩ := hostLeave_next h
    exact exec_requests_of_ne hexec (by simp) q hq
  | execute c =>
    obtain ⟨-, ⟨st, rfl⟩ | ⟨-, -, rfl⟩⟩ := hostCall_next h <;> exact hq
  | submit => exact absurd rfl hev
  | timeout =>
    obtain ⟨p, -, -, ⟨-, rfl⟩ | ⟨-, rfl⟩⟩ := hostTimeout_next h <;> exact hq
  | tick =>
    cases h
    exact hq

/-- R224: what the host asks for is what a waiting call holds. -/
theorem hostStep_requests {ev : HostEvent} {s t : State} (h : hostStep ev s = .next t) :
    ∀ q ∈ requests t, q ∈ requests s ∨ ∃ c ∈ openCalls s.host, q.data = c.data := by
  intro q hq
  by_cases hev : ev = .submit
  · subst hev
    obtain ⟨w, ws, -, -, hw, -, hexec⟩ := hostSubmit_next h
    rcases exec_requests hexec q hq with hq | hi
    · exact .inl hq
    · simp only [Instr.wrReq.injEq] at hi
      exact .inr ⟨w.call, by simp [openCalls, hw], hi.2.2.2.symm⟩
  · exact .inl (hostStep_requests_of_ne h hev q hq)

/-- R224: a dutiful event keeps `0x03` out. -/
theorem event_keeps_etxOut {e : Event} {s t : State} (h : EventNext s e t) (hduty : dutiful e)
    (hout : EtxKeptOut s) : EtxKeptOut t := by
  obtain ⟨hcalls, hrequests⟩ := etxKeptOut_iff.mp hout
  obtain ⟨new, hs⟩ := event_hostActs h
  refine etxKeptOut_iff.mpr ⟨fun c hc => ?calls, ?requests⟩
  case calls =>
    rcases List.mem_append.mp (hs.openCalls_subset hc) with hc | hc
    · exact hcalls c hc
    · match e, hc with
      | .host (.execute c'), hc =>
        obtain rfl : c = c' := List.mem_singleton.mp hc
        exact hduty.1 c rfl
  case requests =>
    cases h with
    | record fmt bytes tail i u hd _ hu =>
      intro q hq
      rcases exec_requests hu q hq with hq | rfl
      · exact hrequests q hq
      · exact hduty.2 fmt bytes _ _ _ _ tail rfl hd
    | resetPin => exact fun q hq => absurd hq List.not_mem_nil
    | host ev u _ hu =>
      intro q hq
      rcases hostStep_requests hu q hq with hq | ⟨c, hc, hqc⟩
      · exact hrequests q hq
      · exact hqc ▸ hcalls c hc

/-- Settles O59: release, the host's invariants, and the duty. -/
theorem hostClosureLeavesNobodyWaiting : Obligations.HostClosureLeavesNobodyWaiting :=
  ⟨fun _ _ _ h => event_releases (runEvent_next h), fun _ _ hinv h => stepWith_keeps_hostInvariants hinv h,
    fun _ _ _ h => event_keeps_etxOut (runEvent_next h)⟩

end Sys2Proof.Proofs
end

section
/-! Proofs about fair runs of the block (70_reset_and_hazards.md section 4): a write ends, the accumulator becomes
quiescent. Each time a measure of what is left to do never grows, and the one operation that is enabled makes it
smaller; weak fairness performs that operation. -/

namespace Sys2Proof.Proofs

open Sys2Proof Sys2Proof.Machine Sys2Proof.Laws

/-! ## What a step does to the block, and which operation it performed -/

/-- The block's part of a step: an instruction, which is the one that was due if any was; the reset pin; or
nothing, and then nothing that was due was enabled. -/
inductive BlockStep (draw : Nat → Event) (s : State) : State → Prop where
  | performed (env : List Event) (draws : Nat) (before after : HostState) (i : Instr) (u : State)
      (hexec : exec i { s with env := env, draws := draws, host := before } = .next u)
      (hdue : ∀ j, isDue draw j s → j = i) : BlockStep draw s { u with host := after }
  | reset (env : List Event) (draws : Nat) (after : HostState) (hdue : dueEvent draw s = .resetPin) :
      BlockStep draw s { resetPin { s with env := env, draws := draws } with host := after }
  | idle (env : List Event) (draws : Nat) (after : HostState)
      (hdue : ∀ j, isDue draw j s → ¬ enabled j { s with env := env, draws := draws }) :
      BlockStep draw s { s with env := env, draws := draws, host := after }

/-- A step takes the due event, off the schedule or drawn; only a drawn one may be refused. -/
theorem stepWith_due {draw : Nat → Event} {s t : State} (h : stepWith draw s = .next t) :
    ∃ env draws,
      runEvent (dueEvent draw s) { s with env := env, draws := draws } = .next t ∨
      (∃ r, runEvent (dueEvent draw s) { s with env := env, draws := draws } = .refused r) ∧
        t = { s with env := env, draws := draws } := by
  cases henv : s.env with
  | cons e rest =>
    rw [stepWith_scheduled henv] at h
    exact ⟨rest, s.draws, .inl (by simpa only [dueEvent, henv] using h)⟩
  | nil =>
    rw [stepWith_drawn henv] at h
    refine ⟨s.env, s.draws + 1, ?_⟩
    simp only [dueEvent, henv] at h ⊢
    cases ho : runEvent (draw s.draws) { s with env := [], draws := s.draws + 1 } with
    | next u =>
      rw [ho] at h
      exact .inl h
    | fault f => cases f
    | refused r =>
      rw [ho] at h
      cases h
      exact .inr ⟨⟨r, rfl⟩, rfl⟩

/-- The instruction that is due is the one that the due record decodes to. -/
theorem isDue_unique {draw : Nat → Event} {s : State} {fmt : Format} {bytes tail : List Byte} {i j : Instr}
    (he : dueEvent draw s = .record fmt bytes) (hd : decodeRecord fmt bytes = .ok (i, tail))
    (hj : isDue draw j s) : j = i := by
  obtain ⟨fmt', bytes', tail', he', hd'⟩ := hj
  cases he.symm.trans he'
  cases hd.symm.trans hd'
  rfl

/-- No instruction is due where the due event is the host's. -/
theorem not_isDue_of_host {draw : Nat → Event} {s : State} {ev : HostEvent}
    (he : dueEvent draw s = .host ev) (j : Instr) : ¬ isDue draw j s := by
  rintro ⟨fmt, bytes, tail, he', -⟩
  cases he.symm.trans he'

/-- An event that is refused performed nothing that was enabled. -/
theorem not_enabled_of_refused {draw : Nat → Event} {s u : State} {r : Refusal} {j : Instr}
    (h : runEvent (dueEvent draw s) u = .refused r) (hj : isDue draw j s) : ¬ enabled j u := by
  obtain ⟨fmt, bytes, tail, he, hd⟩ := hj
  rintro ⟨v, hv⟩
  rw [he, runEvent_record hd (decodedRecordsAreWellFormed fmt bytes tail j hd).1, hv] at h
  cases h

/-- Every step of a run is one of those. -/
theorem stepWith_block {draw : Nat → Event} {s t : State} (h : stepWith draw s = .next t) :
    BlockStep draw s t := by
  obtain ⟨env, draws, hrun | ⟨⟨r, hr⟩, rfl⟩⟩ := stepWith_due h
  · have hevent := runEvent_next hrun
    generalize he : dueEvent draw s = e at hevent
    cases hevent with
    | record fmt bytes tail i u hd _ hu =>
      exact .performed env draws s.host _ i u hu fun j hj => isDue_unique he hd hj
    | resetPin => exact .reset env draws _ he
    | host ev u hu =>
      cases hu with
      | hostAlone hs => exact .idle env draws _ fun j hj => absurd hj (not_isDue_of_host he j)
      | issued hs i _ _ hexec =>
        exact .performed env draws hs _ i u hexec fun j hj => absurd hj (not_isDue_of_host he j)
  · exact .idle env draws s.host fun j hj => not_enabled_of_refused hr hj

/-! ## Leaving a state of a run -/

/-- What a run keeps until something else comes, and does not keep for ever, ends with that something. -/
theorem exists_leaving {P Q : Nat → Prop} {n : Nat} (hn : P n)
    (hstep : ∀ m, n ≤ m → P m → P (m + 1) ∨ Q m) (hnot : ¬ ∀ m, n ≤ m → P m) :
    ∃ m, n ≤ m ∧ P m ∧ Q m := by
  by_contra hno
  refine hnot fun m hm => ?_
  induction m, hm using Nat.le_induction with
  | base => exact hn
  | succ m hm ih => exact (hstep m hm ih).resolve_right fun hq => hno ⟨m, hm, ih, hq⟩

/-- The invariants hold all along a run that starts with them. -/
theorem run_invariants {draw : Nat → Event} {run : Nat → State} (hrun : isRun draw run)
    (h0 : Invariants (run 0)) (n : Nat) : Invariants (run n) := by
  induction n with
  | zero => exact h0
  | succ n ih => exact stepWith_keeps_invariants ih (hrun n)

/-! ## A write ends -/

/-- The operation that brings the writer, or the queue, one step on (R181, R124, R182). -/
def nextOp (s : State) : Instr :=
  match s.cur with
  | none => .wrGrant
  | some a => if a.idx < frameLength a.req then .txEmit else .wrDone

/-- What is left of the write in progress, or the grant and all of the next one. -/
def stage (s : State) : Nat :=
  match s.cur with
  | none => s.params.maxData + 8
  | some a => frameLength a.req - a.idx

/-- What is left until requester `r` is completed: the writes before its own, and the stage of the first. -/
def remaining (r : Nat) (s : State) : Nat :=
  (outstanding s).idxOf r * (s.params.maxData + 9) + stage s

/-- R300: with a request outstanding, the next operation is enabled. -/
theorem enabled_nextOp {s : State} {r : Nat} (hinv : Invariants s) (hr : r ∈ outstanding s) :
    enabled (nextOp s) s := by
  have hl : s.link = .opened := by
    cases hl : s.link with
    | opened => rfl
    | closed =>
      obtain ⟨hw, hc, -⟩ := hinv.closedEmpty hl
      simp [outstanding, hw, hc] at hr
  cases hc : s.cur with
  | none =>
    have hw : s.wq ≠ [] := by
      rintro hw
      simp [outstanding, hw, hc] at hr
    simpa only [nextOp, hc] using enabled_wrGrant_iff.mpr ⟨hl, hc, hw⟩
  | some a =>
    obtain ⟨-, hle, -⟩ := hinv.writing a hc
    by_cases hi : a.idx < frameLength a.req
    · simpa only [nextOp, hc, if_pos hi] using enabled_txEmit_iff.mpr ⟨hl, a, hc, hi⟩
    · simpa only [nextOp, hc, if_neg hi] using
        enabled_wrDone_iff.mpr ⟨a, hc, Nat.le_antisymm hle (Nat.le_of_not_lt hi)⟩

/-- R300: it is one of the operations that fairness speaks of. -/
theorem nextOp_mem_fairOps (s : State) : nextOp s ∈ fairOps := by
  unfold nextOp
  split
  · simp [fairOps]
  · split <;> simp [fairOps]

/-- What a step does for an outstanding requester: completes it, brings it nearer, or leaves it where it was. -/
inductive Nearer (r : Nat) (s t : State) : Prop where
  | completed (new : List (Nat × Status)) (st : Status) (hd : t.doneLog = s.doneLog ++ new)
      (hmem : (r, st) ∈ new) (hst : EndsQueued st) (ho : r ∉ outstanding t)
  | advanced (ho : r ∈ outstanding t) (hlt : remaining r t < remaining r s)
  | waited (ho : r ∈ outstanding t) (hc : t.cur = s.cur) (heq : remaining r t = remaining r s)

/-- R183: a requester completed by an instruction was asked for or outstanding, and is so no longer. -/
theorem completed_not_outstanding {i : Instr} {s t : State} {new : List (Nat × Status)} (hinv : Invariants s)
    (h : exec i s = .next t) (hnew : Completes i s t new) {c : Nat × Status} (hc : c ∈ new) :
    c.1 ∉ outstanding t := by
  obtain ⟨hnodup, hports⟩ := exec_requested h
  have hall : (outstanding s ++ requested i).Nodup :=
    List.nodup_append.mpr ⟨hinv.distinct, hnodup, fun a ha b hb heq => (hports b hb).2 (heq ▸ ha)⟩
  have hdisj := (List.nodup_append.mp (hnew.once.nodup_iff.mpr hall)).2.2
  exact fun ho => hdisj c.1 (List.mem_map_of_mem hc) c.1 ho rfl

/-- What is left depends on `cur`, the requesters and `MAX_DATA`. -/
theorem remaining_congr {r : Nat} {s t : State} (hc : t.cur = s.cur) (hw : t.wq = s.wq) (hp : t.params = s.params) :
    remaining r t = remaining r s := by
  have hstage : stage t = stage s := by
    unfold stage
    rw [hc, hp]
  rw [remaining, remaining, hstage, hp, outstanding_congr (by rw [hc]) hw]

/-- What is left with nobody writing. -/
theorem remaining_of_idle {r maxData : Nat} {out : List Nat} {s : State} (hc : s.cur = none)
    (hp : s.params.maxData = maxData) (ho : outstanding s = out) :
    remaining r s = out.idxOf r * (maxData + 9) + (maxData + 8) := by
  simp only [remaining, stage, hc, hp, ho]

/-- What is left with a write in progress. -/
theorem remaining_of_busy {r maxData : Nat} {a : Active} {out : List Nat} {s : State} (hc : s.cur = some a)
    (hp : s.params.maxData = maxData) (ho : outstanding s = out) :
    remaining r s = out.idxOf r * (maxData + 9) + (frameLength a.req - a.idx) := by
  simp only [remaining, stage, hc, hp, ho]

/-- R27. -/
theorem outstanding_of_busy {s : State} {a : Active} (hc : s.cur = some a) :
    outstanding s = a.req.r :: s.wq.map (fun q => q.r) := by
  simp [outstanding, hc]

/-- R27. -/
theorem outstanding_of_idle {s : State} (hc : s.cur = none) : outstanding s = s.wq.map (fun q => q.r) := by
  simp [outstanding, hc]

/-- R300 for one instruction: it brings an outstanding requester nearer unless it is none of the three
operations on writes. -/
theorem exec_nearer_of_outstanding {i : Instr} {s t : State} {r : Nat} (hinv : Invariants s)
    (h : exec i s = .next t) (hr : r ∈ outstanding s) (ho : r ∈ outstanding t) :
    remaining r t < remaining r s ∨
      (t.cur = s.cur ∧ remaining r t = remaining r s ∧ i ≠ .wrGrant ∧ i ≠ .txEmit ∧ i ≠ .wrDone) := by
  cases exec_next h with
  | txEmit _ a hl hc hi =>
    left
    rw [emitNextByte_eq, remaining_of_busy hc rfl (outstanding_of_busy hc)]
    refine lt_of_eq_of_lt (remaining_of_busy rfl rfl (outstanding_of_busy rfl)) ?_
    exact Nat.add_lt_add_left (Nat.sub_succ_lt_self _ _ hi) _
  | wrGrant _ q rest hl hc hw =>
    left
    have hd := hinv.queuedData q (by simp [hw])
    rw [remaining_of_idle hc rfl (outstanding_of_idle hc), hw]
    refine lt_of_eq_of_lt (remaining_of_busy rfl rfl (outstanding_of_busy rfl)) ?_
    exact Nat.add_lt_add_left (by simp only [frameLength, Config.frameOverhead]; omega) _
  | wrDone _ a hc hi =>
    left
    have hrest : r ∈ s.wq.map (fun q => q.r) := by simpa [outstanding] using ho
    have hne : a.req.r ≠ r := by
      have hnodup := hinv.distinct
      rw [outstanding_of_busy hc, List.nodup_cons] at hnodup
      exact fun heq => hnodup.1 (heq ▸ hrest)
    rw [remaining_of_busy hc rfl (outstanding_of_busy hc), List.idxOf_cons_ne _ hne, Nat.succ_mul]
    refine lt_of_eq_of_lt (remaining_of_idle rfl rfl (outstanding_of_idle rfl)) ?_
    exact Nat.lt_of_lt_of_le (Nat.add_lt_add_left (Nat.lt_succ_self _) _) (Nat.le_add_right _ _)
  | linkOpen _ hl =>
    obtain ⟨hw, hc, -⟩ := hinv.closedEmpty hl
    simp [outstanding, hw, hc] at hr
  | linkClose | linkTerr => simp [outstanding] at ho
  | wrReqQueued r' cmd sub data =>
    right
    refine ⟨rfl, ?_, by simp, by simp, by simp⟩
    have hout : outstanding (setResult none (enqueue ⟨r', cmd, sub, data⟩ s)) = outstanding s ++ [r'] := by
      simp [outstanding]
    rw [remaining, remaining, hout, List.idxOf_append_of_mem hr]
    rfl
  | wire _ bs _ hf =>
    refine .inr ⟨by simp, remaining_congr (by simp) (by simp) (by simp), ?_, ?_, ?_⟩ <;> rintro rfl <;> exact hf rfl
  | accStep => exact .inr ⟨by simp, remaining_congr (by simp) (by simp) (by simp), by simp, by simp, by simp⟩
  | _ => exact .inr ⟨rfl, remaining_congr rfl rfl rfl, by simp, by simp, by simp⟩

/-- R300 for one step that is not the reset pin: an outstanding requester is completed, or nearer, or where it
was, and then the next operation was not performed. -/
theorem step_nearer {draw : Nat → Event} {s t : State} {r : Nat} (hinv : Invariants s)
    (h : stepWith draw s = .next t) (hr : r ∈ outstanding s) (hpin : dueEvent draw s ≠ .resetPin) :
    Nearer r s t ∧ (t.cur = s.cur → remaining r t = remaining r s → r ∈ outstanding t →
      ¬ isDue draw (nextOp s) s) := by
  cases stepWith_block h with
  | performed env draws before after i u hexec hdue =>
    have hinv' := invariants_outside hinv env draws before
    obtain ⟨new, hnew⟩ := exec_completes hinv' hexec
    have hmem : r ∈ new.map Prod.fst ++ outstanding u := hnew.once.mem_iff.mpr (List.mem_append_left _ hr)
    by_cases ho : r ∈ outstanding u
    · rcases exec_nearer_of_outstanding hinv' hexec hr ho with hlt | ⟨hc, heq, h1, h2, h3⟩
      · exact ⟨.advanced ho hlt, fun _ heq _ => absurd heq (Nat.ne_of_lt hlt)⟩
      · refine ⟨.waited ho hc heq, fun _ _ _ hd => ?_⟩
        have hi := hdue _ hd
        unfold nextOp at hi
        split at hi
        · exact h1 hi.symm
        · split at hi
          · exact h2 hi.symm
          · exact h3 hi.symm
    · obtain ⟨c, hc, rfl⟩ := List.mem_map.mp ((List.mem_append.mp hmem).resolve_right ho)
      have hst := (hnew.statuses c hc).resolve_right fun h => h.2 hr
      exact ⟨.completed new c.2 hnew.grows hc hst ho, fun _ _ h => absurd h ho⟩
  | reset env draws after hdue => exact absurd hdue hpin
  | idle env draws after hdue =>
    refine ⟨.waited hr rfl (remaining_congr rfl rfl rfl), fun _ _ _ hd => hdue _ hd ?_⟩
    exact enabled_nextOp (invariants_outside hinv env draws s.host) hr

/-- At time `m` requester `r` is where it was at time `n`. -/
def WaitsAsAt (run : Nat → State) (r n m : Nat) : Prop :=
  r ∈ outstanding (run m) ∧ (run m).cur = (run n).cur ∧ remaining r (run m) = remaining r (run n)

/-- R300: nobody waits for ever, since the next operation would stay enabled and be performed. -/
theorem not_waitsAsAt_forever {draw : Nat → Event} {run : Nat → State} (hrun : isRun draw run)
    (hfair : weaklyFair draw run) (h0 : Invariants (run 0)) (r n : Nat) :
    ¬ ∀ m, n ≤ m → WaitsAsAt run r n m := by
  intro hall
  have hinv := run_invariants hrun h0
  have hsame : ∀ m, n ≤ m → nextOp (run m) = nextOp (run n) := by
    intro m hm
    unfold nextOp
    rw [(hall m hm).2.1]
  obtain ⟨m, hm, hdue⟩ := hfair (nextOp (run n)) (nextOp_mem_fairOps _) n fun m hm =>
    hsame m hm ▸ enabled_nextOp (hinv m) (hall m hm).1
  have hpin : dueEvent draw (run m) ≠ .resetPin := by
    obtain ⟨fmt, bytes, tail, he, -⟩ := hdue
    simp [he]
  obtain ⟨hr, hc, heq⟩ := hall m hm
  obtain ⟨hr', hc', heq'⟩ := hall (m + 1) (by omega)
  exact (step_nearer (hinv m) (hrun m) hr hpin).2 (hc'.trans hc.symm) (heq'.trans heq.symm) hr'
    (hsame m hm ▸ hdue)

/-- How the wait of requester `r` that began at time `n` ends with the step at time `m`. -/
def WaitEnds (draw : Nat → Event) (run : Nat → State) (r n m : Nat) : Prop :=
  dueEvent draw (run m) = .resetPin ∨ (∃ st, completedAt run m r st ∧ EndsQueued st) ∨
    (r ∈ outstanding (run (m + 1)) ∧ remaining r (run (m + 1)) < remaining r (run n))

/-- A requester waits on, or its wait ends. -/
theorem waitsAsAt_step {draw : Nat → Event} {run : Nat → State} {r n m : Nat} (hinv : Invariants (run m))
    (hrun : isRun draw run) (h : WaitsAsAt run r n m) : WaitsAsAt run r n (m + 1) ∨ WaitEnds draw run r n m := by
  obtain ⟨hr, hc, heq⟩ := h
  by_cases hpin : dueEvent draw (run m) = .resetPin
  · exact .inr (.inl hpin)
  · cases (step_nearer hinv (hrun m) hr hpin).1 with
    | completed new st hd hmem hst ho => exact .inr (.inr (.inl ⟨st, ⟨new, hd, hmem, ho⟩, hst⟩))
    | advanced ho hlt => exact .inr (.inr (.inr ⟨ho, heq ▸ hlt⟩))
    | waited ho hc' heq' => exact .inl ⟨ho, hc'.trans hc, heq'.trans heq⟩

/-- R300 (b) along a fair run: by strong induction on what remains. -/
theorem write_ends {draw : Nat → Event} {run : Nat → State} (hrun : isRun draw run)
    (hfair : weaklyFair draw run) (h0 : Invariants (run 0)) {n r : Nat} (hr : r ∈ outstanding (run n)) :
    ∃ m, n ≤ m ∧ (dueEvent draw (run m) = .resetPin ∨ ∃ st, completedAt run m r st ∧ EndsQueued st) := by
  induction hk : remaining r (run n) using Nat.strongRecOn generalizing n with
  | ind k ih =>
    obtain ⟨m, hnm, -, hend⟩ := exists_leaving (P := WaitsAsAt run r n) (Q := WaitEnds draw run r n)
      ⟨hr, rfl, rfl⟩ (fun m _ => waitsAsAt_step (run_invariants hrun h0 m) hrun)
      (not_waitsAsAt_forever hrun hfair h0 r n)
    rcases hend with hpin | hdone | ⟨ho, hlt⟩
    · exact ⟨m, hnm, .inl hpin⟩
    · exact ⟨m, hnm, .inr hdone⟩
    · obtain ⟨m', hm', h⟩ := ih _ (hk ▸ hlt) ho rfl
      exact ⟨m', by omega, h⟩

/-! ## The accumulator becomes quiescent -/

/-- R164. -/
theorem quiescent_of_nil {s : State} (ha : s.acc = []) : quiescent s = true := by
  rw [quiescent_iff, ha]
  exact unresolved_nil

/-- R156, R165: a wire row leaves the accumulator quiescent or as it was. -/
theorem receive_quiescent (bs : List Byte) (s : State) :
    quiescent (receive bs s) = true ∨ (receive bs s).acc = s.acc := by
  cases hl : s.link with
  | closed => exact .inr (by rw [receive_of_closed hl])
  | opened =>
    rcases List.eq_nil_or_concat bs with rfl | ⟨rest, b, rfl⟩
    · exact .inr (by simp only [receive, hl, List.foldl_nil])
    · left
      simp only [receive, hl, List.concat_eq_append, List.foldl_append, List.foldl_cons, List.foldl_nil, receiveByte]
      exact decodeLoopEndsQuiescent.1 _

/-- R162 for one instruction: ACC.STEP takes bytes away, and no other lets an unresolved rest grow. -/
theorem exec_acc {i : Instr} {s t : State} (hq : quiescent s = false) (h : exec i s = .next t) :
    quiescent t = true ∨ t.acc.length < s.acc.length ∨
      (t.acc = s.acc ∧ t.params = s.params ∧ i ≠ .accStep) := by
  cases exec_next h with
  | rxPush b _ hl hq' => cases hq.symm.trans hq'
  | accStep => exact .inr (.inl (exec_accStep_shortens_acc h))
  | linkOpen | linkClose | linkTerr => exact .inl (quiescent_of_nil rfl)
  | txEmit => rw [emitNextByte_eq]; exact .inr (.inr ⟨rfl, rfl, by simp⟩)
  | wire _ bs _ hf =>
    rcases receive_quiescent bs s with hr | ha
    · exact .inl hr
    · exact .inr (.inr ⟨ha, by simp, by rintro rfl; exact hf rfl⟩)
  | _ => exact .inr (.inr ⟨rfl, rfl, by simp⟩)

/-- I2: something in the accumulator means that the link is Open. -/
theorem opened_of_not_quiescent {s : State} (hinv : Invariants s) (hq : quiescent s = false) :
    s.link = .opened := by
  cases hl : s.link with
  | opened => rfl
  | closed =>
    obtain ⟨-, -, ha⟩ := hinv.closedEmpty hl
    cases hq.symm.trans (quiescent_of_nil ha)

/-- R300 (a) for one step. -/
theorem step_acc {draw : Nat → Event} {s t : State} (hinv : Invariants s) (hq : quiescent s = false)
    (h : stepWith draw s = .next t) :
    quiescent t = true ∨ t.acc.length < s.acc.length ∨
      (t.acc = s.acc ∧ t.params = s.params ∧ ¬ isDue draw .accStep s) := by
  cases stepWith_block h with
  | performed env draws before after i u hexec hdue =>
    rcases exec_acc (s := { s with env := env, draws := draws, host := before }) hq hexec with hu | hlt | ⟨ha, hp, hi⟩
    · exact .inl hu
    · exact .inr (.inl hlt)
    · exact .inr (.inr ⟨ha, hp, fun hd => hi (hdue _ hd).symm⟩)
  | reset => exact .inl (quiescent_of_nil rfl)
  | idle env draws after hdue =>
    have hl := opened_of_not_quiescent hinv hq
    exact .inr (.inr ⟨rfl, rfl, fun hd => hdue _ hd (enabled_accStep_iff.mpr ⟨hl, hq⟩)⟩)

/-- R300: what could be resolved does not stay for ever, since ACC.STEP would stay enabled and be performed. -/
theorem not_acc_forever {draw : Nat → Event} {run : Nat → State} (hrun : isRun draw run)
    (hfair : weaklyFair draw run) (h0 : Invariants (run 0)) {n : Nat}
    (hq : ∀ m, n ≤ m → quiescent (run m) = false) : ¬ ∀ m, n ≤ m → (run m).acc = (run n).acc := by
  intro hall
  have hinv := run_invariants hrun h0
  obtain ⟨m, hm, hdue⟩ := hfair .accStep (by simp [fairOps]) n fun m hm =>
    enabled_accStep_iff.mpr ⟨opened_of_not_quiescent (hinv m) (hq m hm), hq m hm⟩
  rcases step_acc (hinv m) (hq m hm) (hrun m) with h | h | ⟨-, -, h⟩
  · cases (hq (m + 1) (by omega)).symm.trans h
  · rw [hall m hm, hall (m + 1) (by omega)] at h
    exact Nat.lt_irrefl _ h
  · exact h hdue

/-- R300 (a) along a fair run: by strong induction on the bytes in the accumulator. -/
theorem accumulator_drains {draw : Nat → Event} {run : Nat → State} (hrun : isRun draw run)
    (hfair : weaklyFair draw run) (h0 : Invariants (run 0)) (n : Nat) :
    ∃ m, n ≤ m ∧ quiescent (run m) = true := by
  induction hk : (run n).acc.length using Nat.strongRecOn generalizing n with
  | ind k ih =>
    by_contra hno
    have hq : ∀ m, n ≤ m → quiescent (run m) = false := fun m hm => by
      simpa using fun h => hno ⟨m, hm, h⟩
    obtain ⟨m, hm, -, hlt⟩ := exists_leaving (n := n) (P := fun m => (run m).acc = (run n).acc)
      (Q := fun m => (run (m + 1)).acc.length < (run n).acc.length) rfl
      (fun m hm ha => by
        rcases step_acc (run_invariants hrun h0 m) (hq m hm) (hrun m) with h | h | ⟨h, -⟩
        · cases (hq (m + 1) (by omega)).symm.trans h
        · exact .inr (ha ▸ h)
        · exact .inl (h.trans ha))
      (not_acc_forever hrun hfair h0 hq)
    obtain ⟨m', hm', h⟩ := ih _ (hk ▸ hlt) (m + 1) rfl
    exact hno ⟨m', by omega, h⟩

/-- Settles O45: the two measures. -/
theorem fairRunsCompleteWritesAndDrain : Obligations.FairRunsCompleteWritesAndDrain :=
  fun _ _ hrun hfair h0 => ⟨fun _ _ hr => write_ends hrun hfair h0 hr, accumulator_drains hrun hfair h0⟩

end Sys2Proof.Proofs
end

section
/-! Proofs about fair runs of the host (45_host_contract.md section 5, R225): every call of `execute` resolves. A
suspended caller has a rank, its attempts left and the callers before it; nothing makes the rank grow, and what the
host does by itself makes it smaller. -/

namespace Sys2Proof.Proofs

open Sys2Proof Sys2Proof.Machine Sys2Proof.Laws

/-! ## The rank of a suspended caller -/

/-- How a call of `execute` resolves (R214, R225). -/
def Resolves (r : CallResult) : Prop :=
  (∃ f, r = .frame f) ∨ r = .failed .linkClosed ∨ ∃ k, r = .failed (.commandTimeout k)

/-- The caller is suspended, with a rank: first the attempts it has left, the one in flight counting half; then the
waiters before it, an attempt in flight of another counting half. -/
inductive Stands (c : Nat) (h : HostState) : Nat → Nat → Prop where
  | pending (p : Pending) (hp : h.pending = some p) (hc : p.call.caller = c) :
      Stands c h (2 * (p.call.maxAttempts - p.attempt) + 1) 0
  | waiting (before : List Waiter) (w : Waiter) (behind : List Waiter)
      (hw : h.waiters = before ++ w :: behind) (hc : w.call.caller = c) :
      Stands c h (2 * (w.call.maxAttempts - w.made)) (2 * before.length + h.pending.toList.length)

/-- Every suspended caller has a rank. -/
theorem stands_of_suspended {c : Nat} {h : HostState} (hc : c ∈ suspended h) : ∃ a b, Stands c h a b := by
  obtain ⟨call, hcall, rfl⟩ := List.mem_map.mp hc
  rcases List.mem_append.mp hcall with hmem | hmem
  · obtain ⟨p, hp, rfl⟩ := List.mem_map.mp hmem
    exact ⟨_, _, .pending p (by simpa using hp) rfl⟩
  · obtain ⟨w, hwaits, rfl⟩ := List.mem_map.mp hmem
    obtain ⟨before, behind, hw⟩ := List.append_of_mem hwaits
    exact ⟨_, _, .waiting before w behind hw rfl⟩

/-- Whoever has a rank is pending or waiting. -/
theorem Stands.somebody {c a b : Nat} {h : HostState} (hs : Stands c h a b) :
    ¬ (h.pending = none ∧ h.waiters = []) := by
  rintro ⟨hp, hw⟩
  cases hs with
  | pending p hp' => cases hp.symm.trans hp'
  | waiting before w behind hw' => simp [hw] at hw'

/-- The caller has a rank below `a`, `b`, lexicographically. -/
def StandsBelow (c : Nat) (h : HostState) (a b : Nat) : Prop :=
  ∃ a' b', Stands c h a' b' ∧ (a' < a ∨ a' = a ∧ b' < b)

/-- What an action does for a suspended caller: answers it, lowers its rank, or leaves its rank and the attempt in
flight. -/
def Moves (c : Nat) (h h' : HostState) (a b : Nat) (new : List (Nat × CallResult)) : Prop :=
  (∃ r, (c, r) ∈ new ∧ Resolves r) ∨
  StandsBelow c h' a b ∨
  (Stands c h' a b ∧ h'.pending = h.pending)

variable {maxData c a b : Nat} {h h' : HostState} {cs : List Call} {new : List (Nat × CallResult)}

/-- R209, R213: once the attempt in flight is over, its own caller apart, everybody is nearer. -/
theorem stands_after_attempt {before behind : List Waiter} {w : Waiter} {p : Pending} (hp : h.pending = some p)
    (hp' : h'.pending = none) (hw' : ∃ more, h'.waiters = before ++ w :: (behind ++ more)) :
    StandsBelow w.call.caller h' (2 * (w.call.maxAttempts - w.made))
      (2 * before.length + h.pending.toList.length) := by
  obtain ⟨more, hw'⟩ := hw'
  exact ⟨_, _, .waiting before w _ hw' rfl, .inr ⟨rfl, by simp [hp, hp']⟩⟩

/-- One action, by its kind. -/
theorem HostAct.moves (ha : HostAct maxData h cs new h') (hok : HostOk maxData h) (hs : Stands c h a b) :
    Moves c h h' a b new := by
  cases ha with
  | aside _ hp hw =>
    refine .inr (.inr ⟨?_, hp⟩)
    cases hs with
    | pending p hp' hc => exact .pending p (hp.trans hp') hc
    | waiting before w behind hw' hc => exact hp ▸ .waiting before w behind (hw.trans hw') hc
  | answered call st =>
    refine .inr (.inr ⟨?_, rfl⟩)
    cases hs with
    | pending p hp hc => exact .pending p hp hc
    | waiting before w behind hw hc => exact .waiting before w behind hw hc
  | joined call =>
    refine .inr (.inr ⟨?_, rfl⟩)
    cases hs with
    | pending p hp hc => exact .pending p hp hc
    | waiting before w behind hw hc =>
      exact .waiting (h := joinWaiters call h) before w (behind ++ [⟨call, 0⟩]) (by simp [joinWaiters, hw]) hc
  | registered w ws hp hw =>
    right; left
    cases hs with
    | pending p hp' => cases hp.symm.trans hp'
    | waiting before w' behind hw' hc =>
      cases before with
      | nil =>
        obtain ⟨rfl, rfl⟩ : w = w' ∧ ws = behind := by simpa using hw.symm.trans hw'
        have hleft := hok.attemptsLeft w (by simp [hw])
        exact ⟨_, _, .pending _ rfl hc, .inl (by simp only; omega)⟩
      | cons x before =>
        obtain ⟨rfl, rfl⟩ : w = x ∧ ws = before ++ w' :: behind := by simpa using hw.symm.trans hw'
        refine ⟨_, _, .waiting before w' behind rfl hc, .inr ⟨rfl, ?_⟩⟩
        simp [hp]
        omega
  | tooLarge w ws hp hw hd =>
    have := hok.fits w.call (by simp [openCalls, hw])
    omega
  | retried p hp =>
    right; left
    cases hs with
    | pending p' hp' hc =>
      cases hp.symm.trans hp'
      exact ⟨_, _, .waiting h.waiters ⟨p.call, p.attempt⟩ [] rfl hc, .inl (Nat.lt_succ_self _)⟩
    | waiting before w behind hw hc =>
      subst hc
      exact stands_after_attempt (behind := behind) hp rfl ⟨[⟨p.call, p.attempt⟩], by simp [hw]⟩
  | fulfilled p r hp hr =>
    cases hs with
    | pending p' hp' hc =>
      cases hp.symm.trans hp'
      exact .inl ⟨r, by simp [hc], hr.imp_right .inr⟩
    | waiting before w behind hw hc =>
      subst hc
      exact .inr (.inl (stands_after_attempt (behind := behind) hp rfl ⟨[], by simp [hw, fulfil]⟩))
  | released =>
    refine .inl ⟨.failed .linkClosed, ?_, .inr (.inl rfl)⟩
    cases hs with
    | pending p hp hc => simp [openCalls, hp, hc]
    | waiting before w behind hw hc => simp [openCalls, hw, hc]

/-- Several actions: the ranks are compared in turn. -/
theorem HostActs.moves (hs : HostActs maxData h cs new h') (hok : HostOk maxData h) (hst : Stands c h a b) :
    Moves c h h' a b new := by
  induction hs with
  | first ha => exact ha.moves hok hst
  | andThen hs ha ih =>
    have hok' := hs.keeps_ok hok
    rcases ih with ⟨r, hr, hres⟩ | ⟨a', b', hst', hlt⟩ | ⟨hst', hp⟩
    · exact .inl ⟨r, List.mem_append_left _ hr, hres⟩
    · rcases ha.moves hok' hst' with ⟨r, hr, hres⟩ | ⟨a'', b'', hst'', hlt'⟩ | ⟨hst'', -⟩
      · exact .inl ⟨r, List.mem_append_right _ hr, hres⟩
      · exact .inr (.inl ⟨a'', b'', hst'', by omega⟩)
      · exact .inr (.inl ⟨a', b', hst'', hlt⟩)
    · rcases ha.moves hok' hst' with ⟨r, hr, hres⟩ | hlower | ⟨hst'', hp'⟩
      · exact .inl ⟨r, List.mem_append_right _ hr, hres⟩
      · exact .inr (.inl hlower)
      · exact .inr (.inr ⟨hst'', hp'.trans hp⟩)

/-- R214: whoever is answered is suspended no longer. -/
theorem HostActs.answered_not_suspended (hs : HostActs maxData h cs new h') (hn : (suspended h).Nodup)
    {x : Nat × CallResult} (hx : x ∈ new) : x.1 ∉ suspended h' := by
  have hcalled : (suspended h ++ cs.map Call.caller).Nodup := by
    clear hx
    induction hs with
    | first ha => exact ha.called_new hn
    | andThen _ _ ih => exact ih
  have hdisj := (List.nodup_append.mp (hs.account.nodup_iff.mpr hcalled)).2.2
  exact fun h => hdisj x.1 (List.mem_map_of_mem hx) x.1 h rfl

/-- R213: no action puts the clock back. -/
theorem HostAct.clock_le (ha : HostAct maxData h cs new h') : h.clock ≤ h'.clock := by
  cases ha with
  | aside _ _ _ _ hk => exact hk
  | _ => exact Nat.le_refl _

/-- R213: nor do several. -/
theorem HostActs.clock_le (hs : HostActs maxData h cs new h') : h.clock ≤ h'.clock := by
  induction hs with
  | first ha => exact ha.clock_le
  | andThen _ ha ih => exact Nat.le_trans ih ha.clock_le

/-! ## One step -/

variable {draw : Nat → Event} {s t : State}

/-- Every step is actions of the host. -/
theorem stepWith_hostActs (hstep : stepWith draw s = .next t) :
    ∃ cs new, HostActs s.params.maxData s.host cs new t.host := by
  rcases stepWith_next hstep with ⟨e, rest, -, he⟩ | ⟨-, he | rfl⟩
  · obtain ⟨new, hs⟩ := event_hostActs he
    exact ⟨_, new, hs⟩
  · obtain ⟨new, hs⟩ := event_hostActs he
    exact ⟨_, new, hs⟩
  · exact ⟨_, _, .first (hostAct_refl s.host)⟩

/-- R10, R13: no step changes the open parameters. -/
theorem stepWith_params (hstep : stepWith draw s = .next t) : t.params = s.params := by
  rcases stepWith_next hstep with ⟨e, rest, -, he⟩ | ⟨-, he | rfl⟩
  · exact (event_grows he).params
  · exact (event_grows he).params
  · rfl

/-- R281: the reset pin closes the link. -/
theorem closed_of_resetPin (hstep : stepWith draw s = .next t) (hdue : dueEvent draw s = .resetPin) :
    t.link = .closed := by
  obtain ⟨env, draws, h | ⟨⟨r, hr⟩, -⟩⟩ := stepWith_due hstep
  · rw [hdue] at h
    cases h
    rfl
  · rw [hdue] at hr
    cases hr

/-- On an open link, with no new frame, the host does not react. -/
theorem hostReact_host_of_opened {u : State} (hf : u.frameLog = s.frameLog) (hl : u.link = .opened) :
    (hostReact s u).host = u.host := by
  rw [hostReact_quiet hf hl]

/-- A host event that is due and enabled whatever the schedule and the draws happens; on an open link, with no new
frame, that is all. -/
theorem stepWith_host {ev : HostEvent} (hstep : stepWith draw s = .next t) (hdue : dueEvent draw s = .host ev)
    (hen : ∀ env draws, hostEnabled ev { s with env := env, draws := draws }) :
    ∃ env draws u, hostStep ev { s with env := env, draws := draws } = .next u ∧
      (u.frameLog = s.frameLog → u.link = .opened → t.host = u.host) := by
  obtain ⟨env, draws, h⟩ := stepWith_due hstep
  obtain ⟨u, hu⟩ := hen env draws
  rw [hdue, runEvent, hu] at h
  rcases h with h | ⟨⟨r, hr⟩, -⟩
  · cases h
    exact ⟨env, draws, u, hu, hostReact_host_of_opened⟩
  · cases hr

/-- R213: a tick on an open link adds one to the clock. -/
theorem clock_of_tick (hstep : stepWith draw s = .next t) (hdue : dueEvent draw s = .host .tick)
    (hl : s.link = .opened) : t.host.clock = s.host.clock + 1 := by
  obtain ⟨env, draws, u, hu, ht⟩ := stepWith_host hstep hdue fun _ _ => hostEnabled_tick _
  cases hu
  rw [ht rfl hl]

/-- R213, R215: a timeout on an open link ends the attempt in flight. -/
theorem pending_of_timeout (hstep : stepWith draw s = .next t) (hdue : dueEvent draw s = .host .timeout)
    (hen : hostEnabled .timeout s) (hl : s.link = .opened) : t.host.pending = none := by
  have hen' := hostEnabled_timeout_iff.mp hen
  obtain ⟨env, draws, u, hu, ht⟩ := stepWith_host hstep hdue fun _ _ => hostEnabled_timeout_iff.mpr hen'
  obtain ⟨p, -, -, ⟨-, rfl⟩ | ⟨-, rfl⟩⟩ := hostTimeout_next hu
  · rw [ht rfl hl]
  · rw [ht rfl hl]
    rfl

/-- R208: a SUBMIT that happens leaves an attempt in flight on the open link, and no new frame. -/
theorem hostSubmit_pending {u : State} (hinv : HostInvariants s) (hu : hostStep .submit s = .next u) :
    u.frameLog = s.frameLog ∧ u.link = .opened ∧ u.host.pending ≠ none := by
  obtain ⟨hl, -, -, -, hn⟩ := hostEnabled_submit_iff.mp ⟨u, hu⟩
  obtain ⟨w, ws, -, hp, hw, ho, -⟩ := hostSubmit_next hu
  have hd := hinv.fits w.call (by simp [openCalls, hw])
  cases (hostSubmit_queues hl hp hw ho hn hd).symm.trans hu
  exact ⟨rfl, hl, Option.some_ne_none _⟩

/-- R208: a due SUBMIT that is enabled puts an attempt in flight. -/
theorem pending_of_submit (hinv : HostInvariants s) (hstep : stepWith draw s = .next t)
    (hdue : dueEvent draw s = .host .submit) (hen : hostEnabled .submit s) : t.host.pending ≠ none := by
  have hen' := hostEnabled_submit_iff.mp hen
  obtain ⟨env, draws, u, hu, ht⟩ := stepWith_host hstep hdue fun _ _ => hostEnabled_submit_iff.mpr hen'
  obtain ⟨hf, hl, hp⟩ := hostSubmit_pending (hostInvariants_outside hinv env draws) hu
  exact ht hf hl ▸ hp

/-- R180: a requester outstanding after an instruction was so before, or asked. -/
theorem exec_outstanding {i : Instr} {u : State} (hexec : exec i s = .next u) {r : Nat}
    (hr : r ∈ outstanding u) : r ∈ outstanding s ∨ ∃ cmd sub data, i = .wrReq r cmd sub data := by
  rw [outstanding_eq] at hr ⊢
  obtain ⟨q, hq, rfl⟩ := List.mem_map.mp hr
  rcases exec_requests hexec q hq with hq | hi
  · exact .inl (List.mem_map_of_mem hq)
  · exact .inr ⟨_, _, _, hi⟩

/-- R208, R293: the host's port becomes outstanding by somebody else's WR.REQ, or by SUBMIT. -/
theorem hostPort_outstanding (hinv : HostInvariants s) (hstep : stepWith draw s = .next t)
    (ho : hostPort ∉ outstanding s) (ho' : hostPort ∈ outstanding t) :
    (∃ cmd sub data, isDue draw (.wrReq hostPort cmd sub data) s) ∨ t.host.pending ≠ none := by
  obtain ⟨env, draws, h | ⟨-, rfl⟩⟩ := stepWith_due hstep
  · have hevent := runEvent_next h
    generalize he : dueEvent draw s = e at hevent
    cases hevent with
    | record fmt bytes tail i u hd _ hu =>
      obtain ⟨cmd, sub, data, rfl⟩ := (exec_outstanding hu ho').resolve_left ho
      exact .inl ⟨cmd, sub, data, fmt, bytes, tail, he, hd⟩
    | resetPin => exact absurd ho' List.not_mem_nil
    | host ev u _ hu =>
      by_cases hev : ev = .submit
      · subst hev
        obtain ⟨hf, hl, hp⟩ := hostSubmit_pending (hostInvariants_outside hinv env draws) hu
        exact .inr (hostReact_host_of_opened hf hl ▸ hp)
      · have hmem : hostPort ∈ outstanding u := ho'
        rw [outstanding_eq] at hmem ho
        exact absurd (List.map_subset _ (hostStep_requests_of_ne hu hev) hmem) ho
  · exact absurd ho' ho

/-! ## Fair runs -/

/-- The runs R225 speaks of. -/
structure FairHostRun (draw : Nat → Event) (run : Nat → State) : Prop where
  isRun : isRun draw run
  block : weaklyFair draw run
  host : hostFair draw run
  port : hostOwnsPort draw run
  invariants : Invariants (run 0)
  hostInvariants : HostInvariants (run 0)
  nreq : 0 < (run 0).params.nreq

/-- Caller `c` keeps its rank from time `n` on, and the attempt in flight stays. -/
def StandsFrom (run : Nat → State) (c n a b : Nat) : Prop :=
  ∀ m, n ≤ m → Stands c (run m).host a b ∧ (run m).host.pending = (run n).host.pending

section
variable {run : Nat → State} {n m : Nat} (hr : FairHostRun draw run)
include hr

/-- The host's invariants hold all along. -/
theorem FairHostRun.hostInvariants_at (n : Nat) : HostInvariants (run n) := by
  induction n with
  | zero => exact hr.hostInvariants
  | succ n ih => exact stepWith_keeps_hostInvariants ih (hr.isRun n)

/-- The host's port exists all along. -/
theorem FairHostRun.nreq_at (n : Nat) : 0 < (run n).params.nreq := by
  induction n with
  | zero => exact hr.nreq
  | succ n ih => exact stepWith_params (hr.isRun n) ▸ ih

/-- R227: where somebody is suspended, the link is Open. -/
theorem FairHostRun.opened (hs : Stands c (run n).host a b) : (run n).link = .opened := by
  cases hl : (run n).link with
  | opened => rfl
  | closed => exact absurd ((hr.hostInvariants_at n).closedReleased hl) hs.somebody

/-- R213: the clock is never put back. -/
theorem FairHostRun.clock_monotone : Monotone fun i => (run i).host.clock :=
  monotone_nat_of_le_succ fun i => by
    obtain ⟨_, _, hs⟩ := stepWith_hostActs (hr.isRun i)
    exact hs.clock_le

/-- R213: on a link that stays open the clock passes every value. -/
theorem FairHostRun.clock_passes (hl : ∀ m, n ≤ m → (run m).link = .opened) (k : Nat) :
    ∃ m, n ≤ m ∧ k ≤ (run m).host.clock := by
  induction k with
  | zero => exact ⟨n, Nat.le_refl n, Nat.zero_le _⟩
  | succ k ih =>
    obtain ⟨m, hm, hk⟩ := ih
    obtain ⟨m', hm', hdue⟩ := hr.host .tick (by simp [hostFairEvents]) m fun _ _ => hostEnabled_tick _
    have hmm' : (run m).host.clock ≤ (run m').host.clock := hr.clock_monotone hm'
    have htick := clock_of_tick (hr.isRun m') hdue (hl m' (by omega))
    exact ⟨m' + 1, by omega, by omega⟩

/-- R213, R215: an attempt does not stay in flight for ever on an open link, since TIMEOUT would stay enabled. -/
theorem FairHostRun.attempt_ends (p : Pending) (hl : ∀ m, n ≤ m → (run m).link = .opened) :
    ¬ ∀ m, n ≤ m → (run m).host.pending = some p := by
  intro hp
  obtain ⟨k, hk, hclock⟩ := hr.clock_passes hl (p.submitted + p.call.timeout)
  have hen : ∀ m, k ≤ m → hostEnabled .timeout (run m) := fun m hm =>
    hostEnabled_timeout_iff.mpr ⟨p, hp m (by omega), hclock.trans (hr.clock_monotone hm)⟩
  obtain ⟨m, hm, hdue⟩ := hr.host .timeout (by simp [hostFairEvents]) k hen
  have hnone := pending_of_timeout (hr.isRun m) hdue (hen m hm) (hl m (by omega))
  cases hnone.symm.trans (hp (m + 1) (by omega))

/-- R208: the host's port, once free, stays free while the host has no attempt in flight. -/
theorem FairHostRun.port_stays_free (hp : ∀ m, n ≤ m → (run m).host.pending = none)
    (ho : hostPort ∉ outstanding (run n)) (hm : n ≤ m) : hostPort ∉ outstanding (run m) := by
  induction m, hm using Nat.le_induction with
  | base => exact ho
  | succ m hm ih =>
    intro ho'
    rcases hostPort_outstanding (hr.hostInvariants_at m) (hr.isRun m) ih ho' with ⟨cmd, sub, data, hdue⟩ | hp'
    · exact hr.port m cmd sub data hdue
    · exact hp' (hp (m + 1) (by omega))

/-- R300: on a link that stays open the host's port is free at some time. -/
theorem FairHostRun.port_becomes_free (hl : ∀ m, n ≤ m → (run m).link = .opened) :
    ∃ m, n ≤ m ∧ hostPort ∉ outstanding (run m) := by
  by_cases ho : hostPort ∈ outstanding (run n)
  · obtain ⟨m, hm, hpin | ⟨_, ⟨_, -, -, hfree⟩, -⟩⟩ := write_ends hr.isRun hr.block hr.invariants ho
    · cases (hl (m + 1) (by omega)).symm.trans (closed_of_resetPin (hr.isRun m) hpin)
    · exact ⟨m + 1, by omega, hfree⟩
  · exact ⟨n, Nat.le_refl n, ho⟩

/-- R208: the host does not stay without an attempt while somebody waits, since SUBMIT would stay enabled. -/
theorem FairHostRun.submit_happens (hl : ∀ m, n ≤ m → (run m).link = .opened)
    (hw : ∀ m, n ≤ m → (run m).host.waiters ≠ []) : ¬ ∀ m, n ≤ m → (run m).host.pending = none := by
  intro hp
  obtain ⟨k, hk, hfree⟩ := hr.port_becomes_free hl
  have hen : ∀ m, k ≤ m → hostEnabled .submit (run m) := fun m hm => hostEnabled_submit_iff.mpr
    ⟨hl m (by omega), hp m (by omega), hw m (by omega),
      hr.port_stays_free (fun m hm => hp m (by omega)) hfree hm, hr.nreq_at m⟩
  obtain ⟨m, hm, hdue⟩ := hr.host .submit (by simp [hostFairEvents]) k hen
  exact pending_of_submit (hr.hostInvariants_at m) (hr.isRun m) hdue (hen m hm) (hp (m + 1) (by omega))

/-- R225: nobody keeps its rank for ever. -/
theorem FairHostRun.not_standsFrom : ¬ StandsFrom run c n a b := by
  intro hall
  have hl : ∀ m, n ≤ m → (run m).link = .opened := fun m hm => hr.opened (hall m hm).1
  cases hp : (run n).host.pending with
  | some p => exact hr.attempt_ends p hl fun m hm => (hall m hm).2.trans hp
  | none =>
    have hnone : ∀ m, n ≤ m → (run m).host.pending = none := fun m hm => (hall m hm).2.trans hp
    exact hr.submit_happens hl (fun m hm hw => (hall m hm).1.somebody ⟨hnone m hm, hw⟩) hnone

/-- One step: the caller is answered and suspended no longer, or its rank gets lower, or nothing moves. -/
theorem FairHostRun.step_moves (hs : Stands c (run m).host a b) :
    (∃ r, answeredAt run m c r ∧ Resolves r) ∨
    StandsBelow c (run (m + 1)).host a b ∨
    (Stands c (run (m + 1)).host a b ∧ (run (m + 1)).host.pending = (run m).host.pending) := by
  obtain ⟨cs, new, hacts⟩ := stepWith_hostActs (hr.isRun m)
  have hinv := hr.hostInvariants_at m
  refine (hacts.moves (hostInvariants_iff.mp hinv).2 hs).imp_left ?_
  rintro ⟨r, hmem, hres⟩
  exact ⟨r, ⟨new, hacts.grows, hmem, hacts.answered_not_suspended hinv.callersDistinct hmem⟩, hres⟩

/-- R225: a caller with a rank is answered, or has a lower rank later. -/
theorem FairHostRun.gets_on (hs : Stands c (run n).host a b) :
    (∃ m r, n ≤ m ∧ answeredAt run m c r ∧ Resolves r) ∨
      ∃ m, n ≤ m ∧ StandsBelow c (run m).host a b := by
  obtain ⟨m, hm, -, hend | hend⟩ := exists_leaving (n := n)
    (P := fun m => Stands c (run m).host a b ∧ (run m).host.pending = (run n).host.pending)
    (Q := fun m => (∃ r, answeredAt run m c r ∧ Resolves r) ∨
      StandsBelow c (run (m + 1)).host a b)
    ⟨hs, rfl⟩
    (fun m _ h => by
      rcases hr.step_moves h.1 with hans | hlow | ⟨hst, hp⟩
      · exact .inr (.inl hans)
      · exact .inr (.inr hlow)
      · exact .inl ⟨hst, hp.trans h.2⟩)
    hr.not_standsFrom
  · obtain ⟨r, hans, hres⟩ := hend
    exact .inl ⟨m, r, hm, hans, hres⟩
  · exact .inr ⟨m + 1, by omega, hend⟩

/-- R225, by induction on the rank, lexicographically. -/
theorem FairHostRun.answered (hs : Stands c (run n).host a b) :
    ∃ m r, n ≤ m ∧ answeredAt run m c r ∧ Resolves r := by
  induction a using Nat.strongRecOn generalizing n b with
  | ind a iha =>
    induction b using Nat.strongRecOn generalizing n with
    | ind b ihb =>
      rcases hr.gets_on hs with hans | ⟨k, hk, a', b', hs', hlt⟩
      · exact hans
      · obtain ⟨m, r, hm, hans⟩ : ∃ m r, k ≤ m ∧ answeredAt run m c r ∧ Resolves r := by
          rcases hlt with hlt | ⟨rfl, hlt⟩
          · exact iha a' hlt hs'
          · exact ihb b' hlt hs'
        exact ⟨m, r, hk.trans hm, hans⟩

end

/-- Settles O6: the rank. -/
theorem hostCallsResolveInFairRuns : Obligations.HostCallsResolveInFairRuns := by
  intro draw run hrun hblock hhost hport hinv hhinv hnreq n c hc
  obtain ⟨a, b, hs⟩ := stands_of_suspended hc
  exact FairHostRun.answered ⟨hrun, hblock, hhost, hport, hinv, hhinv, hnreq⟩ hs

end Sys2Proof.Proofs
end
